-- ==== Sys2Proof/Word.lean ====
section
/-! DEFINITION. The widths of QPFC's values (spec 00_scope.md R9: a byte is 8 bits, every CRC value is 16 bits;
30_encoding.md R33, R35: the request word and the result values are 32 bits). -/

namespace Sys2Proof

abbrev Byte := BitVec 8

/-- A 16-bit value: a CRC, a length field, a command type, a keycode. -/
abbrev Half := BitVec 16

/-- A 32-bit value: the request word, a result value. -/
abbrev Word := BitVec 32

/-- A byte sequence, first byte on the wire first (R9). -/
abbrev Bytes := List Byte

end Sys2Proof
end

