-- ==== Sys2Proof/Syntax.lean ====
section
/-! DEFINITION. The operations of QPFC, one constructor per row of spec/opcode_table.json (spec 30_encoding.md R42), and the
key tokens (R40). -/

namespace Sys2Proof

/-- An operation with its immediate operand. The input buffer A is no operand of the word: it comes with the request
(30_encoding.md R33). A byte operand is `IMM[7:0]`, a half operand is `IMM` (R34). -/
inductive Instr where
  | crc16
  | crcTbl (index : Byte)
  | crcInit
  | crcFeed
  | crcRead
  | xor
  | ksInit
  | ksXor
  | frameEnc (commandType : Half)
  | frameDec
  | rsyncCheck
  | rsyncScan
  | keycode (tok : Byte)
  | keyFrame (tok : Byte)
  | keyFrameCode (code : Half)
  deriving DecidableEq, Repr

/-- The closed set of key tokens, in the order of the source (R40, 10_state.md R20). -/
inductive KeyToken where
  | d0 | d1 | d2 | d3 | d4 | d5 | d6 | d7 | d8 | d9
  | menu | up | down | exit | star | hash | ptt | f2 | f1
  deriving DecidableEq, Repr

end Sys2Proof
end

