-- ==== Sys2Proof/WellFormed.lean ====
section
/-! DEFINITION. Which instructions spell an operation on something the spec names. Every term of `Instr` has an encoding: its
operand types are exactly the operand fields of 30_encoding.md R34, so the bits of a word can be ill formed (Decode.lean
says how) but a term's bits cannot. What a term can get wrong is its key operand. -/

namespace Sys2Proof

/-- The key operand, where the operation has one, spells a token (TOK 0 to 18, 30_encoding.md R40) or is a keycode the
spec names (32 to 50, 44_keypress.md R74). An instruction that fails this runs, and is answered ERR_KEY (R84). -/
def Instr.wf : Instr → Bool
  | .crc16 => true
  | .crcTbl _ => true
  | .crcInit => true
  | .crcFeed => true
  | .crcRead => true
  | .xor => true
  | .ksInit => true
  | .ksXor => true
  | .frameEnc _ => true
  | .frameDec => true
  | .rsyncCheck => true
  | .rsyncScan => true
  | .keycode tok => decide (tok.toNat ≤ 18)
  | .keyFrame tok => decide (tok.toNat ≤ 18)
  | .keyFrameCode code => decide (32 ≤ code.toNat ∧ code.toNat ≤ 50)

end Sys2Proof
end

