-- ==== Sys2Proof/Decode.lean ====
section
/-! DEFINITION. The request word: its fields, decoding and encoding (spec 30_encoding.md R33, R34, R42, R43). -/

namespace Sys2Proof

/-! ## Fields (R33) -/

/-- `OP`, W[7:0]. -/
def opField (w : Word) : Byte := w.extractLsb' 0 8

/-- `IMM`, W[23:8]. -/
def immField (w : Word) : Half := w.extractLsb' 8 16

/-- `RSV`, W[31:24]. -/
def rsvField (w : Word) : Byte := w.extractLsb' 24 8

/-- `IMM[7:0]`, the byte operand (R34). -/
def immLow (w : Word) : Byte := (immField w).extractLsb' 0 8

/-- `IMM[15:8]`, which an operation with a byte operand requires to be 0 (R34). -/
def immHigh (w : Word) : Byte := (immField w).extractLsb' 8 8

/-! ## Decoding -/

/-- Why a request word is illegal (R43). The three have one and the same effect, ERR_OP (60_exceptions.md R86); which one
is named where several hold is the model's choice and shows nowhere in a response. -/
inductive IllegalWord where
  | reservedBits
  | unassignedOp
  | immMustBeZero
  deriving DecidableEq, Repr

/-- An operation that takes no immediate requires `IMM` = 0 (R34). -/
def decodeNoImm (w : Word) (i : Instr) : Except IllegalWord Instr :=
  if immField w = 0 then .ok i else .error .immMustBeZero

/-- An operation with a byte operand requires `IMM[15:8]` = 0 (R34). -/
def decodeByteImm (w : Word) (i : Byte → Instr) : Except IllegalWord Instr :=
  if immHigh w = 0 then .ok (i (immLow w)) else .error .immMustBeZero

/-- The opcode map (R42). -/
def decodeOp (w : Word) : Except IllegalWord Instr :=
  match opField w with
  | 0x01#8 => decodeNoImm w .crc16
  | 0x02#8 => decodeByteImm w .crcTbl
  | 0x03#8 => decodeNoImm w .crcInit
  | 0x04#8 => decodeNoImm w .crcFeed
  | 0x05#8 => decodeNoImm w .crcRead
  | 0x10#8 => decodeNoImm w .xor
  | 0x11#8 => decodeNoImm w .ksInit
  | 0x12#8 => decodeNoImm w .ksXor
  | 0x20#8 => .ok (.frameEnc (immField w))
  | 0x21#8 => decodeNoImm w .frameDec
  | 0x30#8 => decodeNoImm w .rsyncCheck
  | 0x31#8 => decodeNoImm w .rsyncScan
  | 0x40#8 => decodeByteImm w .keycode
  | 0x41#8 => decodeByteImm w .keyFrame
  | 0x42#8 => .ok (.keyFrameCode (immField w))
  | _ => .error .unassignedOp

/-- The instruction a request word spells, or why it spells none (R43): total on every 32-bit word. -/
def decode (w : Word) : Except IllegalWord Instr :=
  if rsvField w = 0 then decodeOp w else .error .reservedBits

/-! ## Encoding -/

/-- The `OP` value of an operation (R42). -/
def Instr.opcode : Instr → Byte
  | .crc16 => 0x01
  | .crcTbl _ => 0x02
  | .crcInit => 0x03
  | .crcFeed => 0x04
  | .crcRead => 0x05
  | .xor => 0x10
  | .ksInit => 0x11
  | .ksXor => 0x12
  | .frameEnc _ => 0x20
  | .frameDec => 0x21
  | .rsyncCheck => 0x30
  | .rsyncScan => 0x31
  | .keycode _ => 0x40
  | .keyFrame _ => 0x41
  | .keyFrameCode _ => 0x42

/-- A byte operand as the immediate that carries it (R34). -/
def byteImm (b : Byte) : Half := (0 : Byte) ++ b

/-- The `IMM` value of an instruction (R34, R42). -/
def Instr.imm : Instr → Half
  | .crc16 => 0
  | .crcTbl index => byteImm index
  | .crcInit => 0
  | .crcFeed => 0
  | .crcRead => 0
  | .xor => 0
  | .ksInit => 0
  | .ksXor => 0
  | .frameEnc commandType => commandType
  | .frameDec => 0
  | .rsyncCheck => 0
  | .rsyncScan => 0
  | .keycode tok => byteImm tok
  | .keyFrame tok => byteImm tok
  | .keyFrameCode code => code

/-- A request word from its fields: RSV = 0, then `IMM`, then `OP` (R33). -/
def packWord (imm : Half) (op : Byte) : Word := ((0 : Byte) ++ imm) ++ op

/-- The request word of an instruction. -/
def encode (i : Instr) : Word := packWord i.imm i.opcode

/-! ## The opcode table's numbering -/

/-- The instruction read from a row's `nbits` bits, bit 0 the least significant bit of the 32-bit request word; a number
that is wider than the word is none. -/
def decodeTableWord (nbits w : Nat) : Option Instr :=
  let v := w % 2 ^ nbits
  if v < 2 ^ 32 then
    match decode (BitVec.ofNat 32 v) with
    | .ok i => some i
    | .error _ => none
  else none

end Sys2Proof
end

