-- ==== Sys2Proof/Config.lean ====
section
/-! DEFINITION. What a built QPFC fixes and the spec leaves open (spec 00_scope.md R6). The parameters are plain data, held
by State, so that a statement over every state is a statement over every value of every parameter. The fixed numbers
(polynomial, markers, tables) are in Machine/Rom.lean. -/

namespace Sys2Proof

/-- `P_SCAN_MODE` (R6; 43_resync.md R68; 92_eei_decisions.md D16). -/
inductive ScanMode where
  | shortest
  | longest
  deriving DecidableEq, Repr

/-- The parameters "fixed when the block is built" (10_state.md R17, R6). -/
structure Params where
  /-- `P_KEY`, the ROM `KEY[0..15]` (10_state.md R19). -/
  key : Vector Byte 16
  /-- `P_CMD_KEYPRESS` (44_keypress.md R75; 92_eei_decisions.md D22). -/
  cmdKeypress : Half
  /-- `P_MAX_BUF` (20_memory.md R32). DESIGN CHOICE (log 5), safe: a 32-bit number, so that every index and length that a
  response reports fits its 32-bit field. -/
  maxBuf : Word
  /-- `P_SCAN_MODE`. -/
  scanMode : ScanMode
  deriving DecidableEq, Repr

/-- FREE VALUE (log 4), safe: the command type of the keypress command is "not in source" and has no default (R6,
91_not_in_source.md N1), so the built block's value is a constant that nothing can evaluate. -/
opaque Config.cmdKeypress : Half

end Sys2Proof
end

