-- ==== Sys2Proof/Machine/Rom.lean ====
section
/-! DEFINITION. The fixed numbers and constant tables of QPFC (spec 00_scope.md R6; 10_state.md R18 to R21) and the
parameters of the block that State.reset describes. `CRC_TABLE` is in Machine/Crc16.lean, beside the rule it is computed
from. -/

namespace Sys2Proof.Machine

/-- `P_POLY`. -/
def poly : Half := 0x1021

/-- `P_CRC_INIT`. -/
def crcInitValue : Half := 0x0000

/-- `P_CRC_XOROUT`. -/
def crcXorOut : Half := 0x0000

/-- `P_MARK_LEAD`, in wire order (R21). -/
def markLead : Bytes := [0xAB, 0xCD]

/-- `P_MARK_TRAIL`, in wire order (R21). -/
def markTrail : Bytes := [0xDC, 0xBA]

/-- The largest body the 16-bit length field can describe (R8, 42_frame_codec.md R60). -/
def maxBody : Nat := 65531

/-- `P_RESYNC_EXTRA`, the most bytes of the one additional read (R6). -/
def resyncExtra : Nat := 512

/-- `P_SETTLE`, 0.4 s, in milliseconds (R6). -/
def settleMs : Nat := 400

/-- `KEYCODE_TABLE[0..18]` (10_state.md R20). -/
def keycodeTable : List Half :=
  [32, 33, 34, 35, 36, 37, 38, 39, 40, 41, 42, 43, 44, 45, 46, 47, 48, 49, 50]

/-- The default of `P_KEY` (10_state.md R19). PRESUMED (log 3), unsafe: "from general knowledge, not in source". -/
def defaultKey : Vector Byte 16 :=
  #v[0x16, 0x6C, 0x14, 0xE6, 0x2E, 0x91, 0x0D, 0x40, 0x21, 0x35, 0xD5, 0x40, 0x13, 0x03, 0xE9, 0x80]

/-- The parameters of the block that State.reset describes: the spec's defaults and suggestion (R6; log 3, DESIGN CHOICE,
unsafe), and for `P_CMD_KEYPRESS`, which has no default, the free value (log 4). -/
def builtParams : Params where
  key := defaultKey
  cmdKeypress := Config.cmdKeypress
  maxBuf := 66055
  scanMode := .shortest

end Sys2Proof.Machine
end

