-- ==== Sys2Proof/Machine/State.lean ====
section
/-! DEFINITION. The state of QPFC (spec 10_state.md R12), its ports (30_encoding.md R33, R35), and how a step can stop. -/

namespace Sys2Proof.Machine

/-- `STATUS` (30_encoding.md R41). -/
inductive Status where
  | ok
  | notFound
  | frameErr
  | errKey
  | errLen
  | errOp
  deriving DecidableEq, Repr

/-- A response (30_encoding.md R35): every field but the status is 0 (`OUT` is `[]`) unless an operation's rule sets it. -/
structure Response where
  status : Status
  flags : Byte := 0
  v0 : Word := 0
  v1 : Word := 0
  v2 : Word := 0
  v3 : Word := 0
  out : Bytes := []
  deriving DecidableEq, Repr

/-- What the host does at QPFC's ports. DESIGN CHOICE (logs 1 and 7), safe. -/
inductive HostEvent where
  /-- A request: the word W and the input buffer A (30_encoding.md R33). -/
  | request (w : Word) (a : Bytes)
  /-- The host puts the block in reset (70_reset_and_hazards.md R95). -/
  | resetAssert
  /-- The end of reset (R96). -/
  | resetRelease
  deriving DecidableEq, Repr

/-- The machine. -/
structure State where
  /-- `CRC_ACC` (10_state.md R13). -/
  crcAcc : Half
  /-- `KS_IDX` (10_state.md R14). -/
  ksIdx : BitVec 4
  /-- The parameters, `KEY[0..15]` among them: ROM (10_state.md R12, R17, R19). -/
  params : Params
  /-- The input buffer `A` of the request in execution; `[]` between requests (20_memory.md R23). -/
  inA : Bytes
  /-- The response port: the response to the latest request, none after reset (30_encoding.md R35,
  70_reset_and_hazards.md R94). No operation reads it (10_state.md R16). -/
  response : Option Response
  /-- The block is being held in reset (70_reset_and_hazards.md R95). -/
  inReset : Bool
  /-- The model's own field: what the host does next, oldest first (20_memory.md R29). It is no storage of QPFC. -/
  inbox : List HostEvent
  deriving DecidableEq, Repr

/-- Why the machine stops with a fault: never. "QPFC has no trap, no exception vector and no handler" (60_exceptions.md
R80): every error is a status in a response, and the type has no value. Safe: nothing raises it. -/
inductive Fault where
  deriving DecidableEq, Repr

/-- Why a step has no meaning. -/
inductive Refusal where
  /-- Raised by an arm of exec whose instruction has no meaning yet (there is none). Safe: the machine stops. -/
  | notModelled (mnemonic : String)
  /-- Raised by the step on a request issued while the block is in reset, which "is not defined" (70_reset_and_hazards.md
  R95; 93_implementation_defined.md I5: refuse at the model's interface). Safe: the machine stops. -/
  | requestDuringReset
  deriving DecidableEq, Repr

/-- The machine right after reset (70_reset_and_hazards.md R94): both registers 0, no response pending, reset released. The
parameters are those of the block's build (logs 3 and 4); the host has issued nothing yet (log 1). -/
def State.reset : State where
  crcAcc := 0x0000
  ksIdx := 0
  params := builtParams
  inA := []
  response := none
  inReset := false
  inbox := []

end Sys2Proof.Machine
end

