-- ==== Sys2Proof/Machine/Flags.lean ====
section
/-! DEFINITION. The flag bits of a response (spec 30_encoding.md R35; 10_state.md R16). -/

namespace Sys2Proof.Machine

/-- One flag as bit 0 of a byte. -/
def flagBit (b : Bool) : Byte := (BitVec.ofBool b).setWidth 8

/-- FRAME_DEC: `FLAGS[0]` = CRC_OK, `FLAGS[1]` = BLEN_OK, `FLAGS[7:2]` = 0 (42_frame_codec.md R64). -/
def decodeFlags (crcOk blenOk : Bool) : Byte := flagBit crcOk ||| (flagBit blenOk <<< 1)

/-- RSYNC_CHECK: `FLAGS[0]` = FRAMED, `FLAGS[7:1]` = 0 (43_resync.md R71). -/
def framedFlags (framed : Bool) : Byte := flagBit framed

/-- `STATUS` as the 8-bit code (30_encoding.md R41). -/
def Status.code : Status → Byte
  | .ok => 0x00
  | .notFound => 0x01
  | .frameErr => 0x10
  | .errKey => 0x11
  | .errLen => 0x12
  | .errOp => 0x13

/-- The statuses that 60_exceptions.md R82 calls errors; OK and NOT_FOUND are none. -/
def Status.isError : Status → Bool
  | .ok => false
  | .notFound => false
  | .frameErr => true
  | .errKey => true
  | .errLen => true
  | .errOp => true

end Sys2Proof.Machine
end

