-- ==== Sys2Proof/Machine/Operands.lean ====
section
/-! DEFINITION. Byte sequences and operand values: the notation of spec 00_scope.md R9 and the buffer primitive of
20_memory.md R25. -/

namespace Sys2Proof.Machine

/-- `s[a:b]`, half open, empty when b ≤ a (R9). -/
def slice (s : Bytes) (a b : Nat) : Bytes := (s.take b).drop a

/-- `MemRead(A, i, n)`: the bytes i to i+n−1 of a buffer (20_memory.md R25). -/
def memRead (a : Bytes) (i n : Nat) : Bytes := slice a i (i + n)

/-- `le16(v)`: the low byte first (R9; little-endian, 20_memory.md R27). -/
def le16 (v : Half) : Bytes := [v.extractLsb' 0 8, v.extractLsb' 8 8]

/-- `rd16(s, i) = s[i] | (s[i+1] << 8)` (R9). It is used only with both bytes inside s. -/
def rd16 (s : Bytes) (i : Nat) : Half :=
  (s.getD i 0).setWidth 16 ||| ((s.getD (i + 1) 0).setWidth 16 <<< 8)

/-- `zext_32(v)` of a 16-bit value (R9, 30_encoding.md R35). -/
def zext32 (v : Half) : Word := v.setWidth 32

/-- An index or a length as a 32-bit result value; it fits, because it is at most `P_MAX_BUF` (log 5). -/
def len32 (n : Nat) : Word := BitVec.ofNat 32 n

/-- A length as a 16-bit field; it fits where the operation has checked it (42_frame_codec.md R60). -/
def len16 (n : Nat) : Half := BitVec.ofNat 16 n

end Sys2Proof.Machine
end

