-- ==== Sys2Proof/Machine/Ops.lean ====
section
/-! DEFINITION. The operations every meaning shares: a request is presented, answered or ended by an error, and the block is
put in reset. -/

namespace Sys2Proof.Machine

/-- How a step ends. -/
abbrev Result := Host.Outcome State Fault Refusal

/-- A request's input buffer at port A (20_memory.md R23). -/
def present (a : Bytes) (s : State) : State := { s with inA := a }

/-- The end of a request: its response stands at the response port, and its input buffer is not kept (20_memory.md R23). -/
def respond (r : Response) (s : State) : State := { s with response := some r, inA := [] }

/-- An operation that completes with the response r. -/
def complete (r : Response) (s : State) : Result := .next (respond r s)

/-- `raise S(info)` (60_exceptions.md R81), QPFC's whole exception mechanism: the request ends at once with STATUS = S,
`V0` the info (0 where the raise names none), every other field 0, `OUT` = [], and no register written. There is no
return from it (R90). -/
def raise (st : Status) (info : Word) (s : State) : Result := complete { status := st, v0 := info } s

/-- The check of every operation that reads A (20_memory.md R32): a buffer longer than `P_MAX_BUF` ends the request with
ERR_LEN before A is read (60_exceptions.md R88). -/
def withBuffer (s : State) (k : Bytes → Result) : Result :=
  if s.params.maxBuf.toNat < s.inA.length then raise .errLen 0 s else k s.inA

/-- The block enters reset (70_reset_and_hazards.md R94): both registers take their reset values, no response is pending,
the ROMs keep theirs. That they do so from here on, and not only after reset, is DEDUCED (logs 7, 8), unsafe. -/
def enterReset (s : State) : State :=
  { s with crcAcc := 0x0000, ksIdx := 0, inA := [], response := none, inReset := true }

/-- The end of reset (70_reset_and_hazards.md R96). -/
def leaveReset (s : State) : State := { s with inReset := false }

end Sys2Proof.Machine
end

