-- ==== Sys2Proof/Machine/Cipher.lean ====
section
/-! DEFINITION. The XOR keystream cipher (spec 41_cipher.md R53 to R59). -/

namespace Sys2Proof.Machine

/-- Keystream byte j: `KEY[j mod 16]` (R53). -/
def keyByte (key : Vector Byte 16) (j : Nat) : Byte := key[j % 16]'(Nat.mod_lt _ (by decide))

/-- `XORK(s, k0) = [ s[j] ^ KEY[(k0 + j) mod 16] ]` (R54). -/
def xork (key : Vector Byte 16) (s : Bytes) (k0 : Nat) : Bytes :=
  s.mapIdx fun j b => b ^^^ keyByte key (k0 + j)

/-- XOR (R57). -/
def execXor (s : State) : Result :=
  withBuffer s fun a => complete { status := .ok, out := xork s.params.key a 0 } s

/-- KS_INIT (R58). -/
def execKsInit (s : State) : Result :=
  complete { status := .ok } { s with ksIdx := 0 }

/-- `(KS_IDX + |A|) mod 16` (10_state.md R14). -/
def ksAdvance (k : BitVec 4) (n : Nat) : BitVec 4 := BitVec.ofNat 4 ((k.toNat + n) % 16)

/-- KS_XOR (R59). -/
def execKsXor (s : State) : Result :=
  withBuffer s fun a =>
    complete { status := .ok, out := xork s.params.key a s.ksIdx.toNat }
      { s with ksIdx := ksAdvance s.ksIdx a.length }

end Sys2Proof.Machine
end

