-- ==== Sys2Proof/Machine/Crc16.lean ====
section
/-! DEFINITION. The CRC16 generator (spec 40_crc16.md R45 to R51; 10_state.md R18). -/

namespace Sys2Proof.Machine

/-! ## The CRC function -/

/-- One of the eight shifts of R45: the bit that leaves the top decides whether the polynomial is added. -/
def crcShift (c : Half) : Half := if c.msb then (c <<< 1) ^^^ poly else c <<< 1

/-- `crc_bit8(c, b)` (R45): the byte enters at the top, then eight shifts. -/
def crcBit8 (c : Half) (b : Byte) : Half := Nat.repeat crcShift 8 (c ^^^ (b.setWidth 16 <<< 8))

/-- `CRC_TABLE[i] = crc_bit8(0x0000, i)` (10_state.md R18). -/
def crcTable (i : Byte) : Half := crcBit8 0x0000 i

/-- `crc_step(c, b)`, one byte by one table lookup (R46). -/
def crcStep (c : Half) (b : Byte) : Half := (c <<< 8) ^^^ crcTable (c.extractLsb' 8 8 ^^^ b)

/-- `crc16(s, c0)` (R46). -/
def crc16From (s : Bytes) (c0 : Half) : Half := s.foldl crcStep c0 ^^^ crcXorOut

/-- `crc16(s) = crc16(s, P_CRC_INIT)` (R46). -/
def crc16 (s : Bytes) : Half := crc16From s crcInitValue

/-! ## The operations -/

/-- CRC16 (R47). -/
def execCrc16 (s : State) : Result :=
  withBuffer s fun a => complete { status := .ok, v0 := zext32 (crc16 a) } s

/-- CRC_TBL (R48). -/
def execCrcTbl (index : Byte) (s : State) : Result :=
  complete { status := .ok, v0 := zext32 (crcTable index) } s

/-- CRC_INIT (R49). -/
def execCrcInit (s : State) : Result :=
  complete { status := .ok } { s with crcAcc := crcInitValue }

/-- CRC_FEED (R50). -/
def execCrcFeed (s : State) : Result :=
  withBuffer s fun a =>
    complete { status := .ok, v0 := zext32 (crc16From a s.crcAcc) } { s with crcAcc := crc16From a s.crcAcc }

/-- CRC_READ (R51). -/
def execCrcRead (s : State) : Result :=
  complete { status := .ok, v0 := zext32 s.crcAcc } s

end Sys2Proof.Machine
end

