-- ==== Sys2Proof/Machine/FrameCodec.lean ====
section
/-! DEFINITION. The frame codec (spec 30_encoding.md R36; 42_frame_codec.md R60 to R64). -/

namespace Sys2Proof.Machine

/-! ## Encode -/

/-- The inner block `le16(t) ++ le16(|b|) ++ b` (R36). -/
def innerBlock (t : Half) (b : Bytes) : Bytes := le16 t ++ le16 (len16 b.length) ++ b

/-- The whole frame around an inner block: the CRC over the plaintext, then the cipher over block and CRC (R36, R60). -/
def frameAround (key : Vector Byte 16) (inner : Bytes) : Bytes :=
  markLead ++ le16 (len16 inner.length) ++ xork key (inner ++ le16 (crc16 inner)) 0 ++ markTrail

/-- `frame_encode(t, b)` (R60), for |b| ≤ 65531. -/
def frameEncode (key : Vector Byte 16) (t : Half) (b : Bytes) : Bytes := frameAround key (innerBlock t b)

/-- FRAME_ENC (R61). -/
def execFrameEnc (commandType : Half) (s : State) : Result :=
  withBuffer s fun a =>
    if maxBody < a.length then raise .errLen 0 s
    else
      complete
        { status := .ok
          v0 := zext32 (crc16 (innerBlock commandType a))
          v1 := len32 (innerBlock commandType a).length
          out := frameEncode s.params.key commandType a } s

/-! ## Decode -/

/-- The reason of a FRAME_ERR (30_encoding.md R41). -/
inductive FrameReason where
  | marker
  | length
  deriving DecidableEq, Repr

/-- The reason as `V0` reports it: 1 MARKER, 2 LENGTH. -/
def FrameReason.code : FrameReason → Word
  | .marker => 1
  | .length => 2

/-- `frame_check(r)` (R62), in its order; the length field L where it passes. -/
def frameCheck (r : Bytes) : Except FrameReason Nat :=
  let n := r.length
  if n < 4 ∨ slice r 0 2 ≠ markLead ∨ slice r (n - 2) n ≠ markTrail then .error .marker
  else if n < 8 then .error .length
  else
    let len := (rd16 r 2).toNat
    if len + 8 ≠ n ∨ len < 4 then .error .length else .ok len

/-- `p = XORK(r[4 : n-2], 0)`, the plaintext inner block and CRC (R63). -/
def framePlain (key : Vector Byte 16) (r : Bytes) : Bytes := xork key (slice r 4 (r.length - 2)) 0

/-- The response to a frame that passed the check with length field `len` (R63, R64): `p` is its plaintext. -/
def decodedResponse (p : Bytes) (len : Nat) : Response :=
  let inner := slice p 0 len
  let blen := rd16 inner 2
  let crcRx := rd16 p len
  let crcCalc := crc16 inner
  { status := .ok
    flags := decodeFlags (crcRx == crcCalc) (blen.toNat == len - 4)
    v0 := zext32 (rd16 inner 0)
    v1 := zext32 crcRx
    v2 := zext32 crcCalc
    v3 := zext32 blen
    out := slice inner 4 len }

/-- FRAME_DEC (R64). -/
def execFrameDec (s : State) : Result :=
  withBuffer s fun a =>
    match frameCheck a with
    | .error reason => raise .frameErr reason.code s
    | .ok len => complete (decodedResponse (framePlain s.params.key a) len) s

end Sys2Proof.Machine
end

