-- ==== Sys2Proof/Machine/Keypress.lean ====
section
/-! DEFINITION. The keypress command builder (spec 44_keypress.md R74 to R78). -/

namespace Sys2Proof.Machine

/-- `keycode(t)` (R74): undefined, hence none, for t ≥ 19. -/
def keycodeOf (tok : Byte) : Option Half := keycodeTable[tok.toNat]?

/-- `key_frame(k) = frame_encode(P_CMD_KEYPRESS, le16(k))` (R75). -/
def keyFrameOf (p : Params) (k : Half) : Bytes := frameEncode p.key p.cmdKeypress (le16 k)

/-- The response that carries a keypress frame and its keycode (R77, R78). -/
def keyFrameResponse (p : Params) (k : Half) : Response :=
  { status := .ok, v0 := zext32 k, out := keyFrameOf p k }

/-- KEYCODE (R76). -/
def execKeycode (tok : Byte) (s : State) : Result :=
  match keycodeOf tok with
  | none => raise .errKey 0 s
  | some k => complete { status := .ok, v0 := zext32 k } s

/-- KEY_FRAME (R77). -/
def execKeyFrame (tok : Byte) (s : State) : Result :=
  match keycodeOf tok with
  | none => raise .errKey 0 s
  | some k => complete (keyFrameResponse s.params k) s

/-- KEY_FRAME_CODE (R78). -/
def execKeyFrameCode (code : Half) (s : State) : Result :=
  if code.toNat < 32 ∨ 50 < code.toNat then raise .errKey 0 s
  else complete (keyFrameResponse s.params code) s

end Sys2Proof.Machine
end

