-- ==== Sys2Proof/Machine/Resync.lean ====
section
/-! DEFINITION. The link resynchronizer's two pure operations (spec 43_resync.md R67, R68, R71, R72). -/

namespace Sys2Proof.Machine

/-- `framed(s)` (R67): the markers only, not the length field. -/
def framed (s : Bytes) : Bool :=
  decide (4 ≤ s.length ∧ slice s 0 2 = markLead ∧ slice s (s.length - 2) s.length = markTrail)

/-- The least index at which the two bytes of a marker stand. -/
def firstMark (m : Bytes) : Bytes → Option Nat
  | [] => none
  | b :: s => if (b :: s).take 2 = m then some 0 else (firstMark m s).map (· + 1)

/-- The greatest index at which the two bytes of a marker stand. -/
def lastMark (m : Bytes) : Bytes → Option Nat
  | [] => none
  | b :: s =>
    match lastMark m s with
    | some j => some (j + 1)
    | none => if (b :: s).take 2 = m then some 0 else none

/-- The trailing marker that closes a range: the first one, or the last under `P_SCAN_MODE` = longest (R68). -/
def closingMark : ScanMode → Bytes → Option Nat
  | .shortest, s => firstMark markTrail s
  | .longest, s => lastMark markTrail s

/-- What a scan gives (R68). -/
inductive ScanResult where
  | notFound
  | found (start length : Nat) (range : Bytes)
  deriving DecidableEq, Repr

/-- `scan(s)` (R68): the leftmost leading marker at i, then the closing trailing marker at j ≥ i+2; the range is
`s[i : j+2]`. -/
def scan (mode : ScanMode) (s : Bytes) : ScanResult :=
  match firstMark markLead s with
  | none => .notFound
  | some i =>
    match closingMark mode (s.drop (i + 2)) with
    | none => .notFound
    | some d =>
      let j := i + 2 + d
      .found i (j + 2 - i) (slice s i (j + 2))

/-- RSYNC_CHECK (R71). -/
def execRsyncCheck (s : State) : Result :=
  withBuffer s fun a => complete { status := .ok, flags := framedFlags (framed a) } s

/-- RSYNC_SCAN (R72). NOT_FOUND is a result: `OUT` is A. -/
def execRsyncScan (s : State) : Result :=
  withBuffer s fun a =>
    match scan s.params.scanMode a with
    | .found start length range =>
      complete { status := .ok, v0 := len32 start, v1 := len32 length, out := range } s
    | .notFound => complete { status := .notFound, out := a } s

end Sys2Proof.Machine
end

