-- ==== Sys2Proof/Machine/Dispatch.lean ====
section
/-! DEFINITION. One arm per constructor of Instr (spec 30_encoding.md R42), each one call of a meaning. -/

namespace Sys2Proof.Machine

def exec (i : Instr) (s : State) : Host.Outcome State Fault Refusal :=
  match i with
  | .crc16 => Sys2Proof.Machine.execCrc16 s
  | .crcTbl index => Sys2Proof.Machine.execCrcTbl index s
  | .crcInit => Sys2Proof.Machine.execCrcInit s
  | .crcFeed => Sys2Proof.Machine.execCrcFeed s
  | .crcRead => Sys2Proof.Machine.execCrcRead s
  | .xor => Sys2Proof.Machine.execXor s
  | .ksInit => Sys2Proof.Machine.execKsInit s
  | .ksXor => Sys2Proof.Machine.execKsXor s
  | .frameEnc commandType => Sys2Proof.Machine.execFrameEnc commandType s
  | .frameDec => Sys2Proof.Machine.execFrameDec s
  | .rsyncCheck => Sys2Proof.Machine.execRsyncCheck s
  | .rsyncScan => Sys2Proof.Machine.execRsyncScan s
  | .keycode tok => Sys2Proof.Machine.execKeycode tok s
  | .keyFrame tok => Sys2Proof.Machine.execKeyFrame tok s
  | .keyFrameCode code => Sys2Proof.Machine.execKeyFrameCode code s

end Sys2Proof.Machine
end

