-- ==== Sys2Proof/Machine/Request.lean ====
section
/-! DEFINITION. What one event at QPFC's ports does (spec 30_encoding.md R33, R43; 60_exceptions.md R86, R88;
70_reset_and_hazards.md R94 to R96). -/

namespace Sys2Proof.Machine

/-- A request (R33). The word is checked before anything else (60_exceptions.md R88): a word that spells no operation
ends the request with ERR_OP (R86); any other runs its operation on the buffer. -/
def runRequest (w : Word) (a : Bytes) (s : State) : Result :=
  match decode w with
  | .ok i => exec i (present a s)
  | .error _ => raise .errOp 0 (present a s)

/-- One event of the host. A request during reset is not defined (70_reset_and_hazards.md R95; log 7). -/
def handleEvent (e : HostEvent) (s : State) : Result :=
  match e with
  | .request w a => if s.inReset then .refused .requestDuringReset else runRequest w a s
  | .resetAssert => .next (enterReset s)
  | .resetRelease => .next (leaveReset s)

/-- With nothing at its ports the block waits and changes nothing. DEDUCED (log 6), safe: the registers are written by the
operations R12 names and by reset, by nothing else. -/
def idle (s : State) : Result := .next s

/-- The request word in a table row's numbering, and the event that carries it with an empty buffer. -/
def tableRequest (nbits w : Nat) : HostEvent := .request (BitVec.ofNat 32 (w % 2 ^ nbits)) []

end Sys2Proof.Machine
end

