-- ==== Sys2Proof/Machine/Step.lean ====
section
/-! DEFINITION. One step: QPFC takes the host's next event and completes it (spec 20_memory.md R29, 70_reset_and_hazards.md
R102: a request completes in one step). -/

namespace Sys2Proof.Machine

/-- One step takes the oldest event of the host; requests take effect in the order they are issued (R29). -/
def step (s : State) : Host.Outcome State Fault Refusal :=
  match s.inbox with
  | [] => idle s
  | e :: rest => handleEvent e { s with inbox := rest }

/-- The state whose very next step runs the instruction of a table row: QPFC fetches nothing (10_state.md R15), so the word
is the host's next request, with an empty buffer A, and the block is out of reset (log 9). -/
def State.withFetchWord (s : State) (nbits w : Nat) : State :=
  { s with inReset := false, inbox := tableRequest nbits w :: s.inbox }

end Sys2Proof.Machine
end

