-- ==== Sys2Proof/Machine/Asm.lean ====
section
/-! DEFINITION. The assembly syntax of 30_encoding.md R44: one request per line, `MNEMONIC [imm] [, A=<hex bytes>]`, and the
pseudo-instructions CRC_STREAM and KEY_SEQ. A line is assembled to the requests it stands for; a line the syntax does not
have is none. -/

namespace Sys2Proof.Machine.Asm

/-! ## Words and numbers -/

/-- A word of a line. -/
abbrev Chars := List Char

/-- The words of a line, between spaces; a comma is a word of its own. DESIGN CHOICE (log 11), safe: R44 does not say how words
are spaced; any number of spaces, at the ends of a line too, counts as one, none is needed beside a comma, and a tab is no
space. -/
def splitWords (line : Chars) : List Chars :=
  ((line.flatMap fun c => if c = ',' then [' ', ',', ' '] else [c]).splitOn ' ').filter fun w => !w.isEmpty

/-- A hexadecimal digit. -/
def hexDigit (c : Char) : Option Nat :=
  if 48 ≤ c.toNat ∧ c.toNat ≤ 57 then some (c.toNat - 48)
  else if 65 ≤ c.toNat ∧ c.toNat ≤ 70 then some (c.toNat - 55)
  else if 97 ≤ c.toNat ∧ c.toNat ≤ 102 then some (c.toNat - 87)
  else none

/-- A decimal digit. -/
def decDigit (c : Char) : Option Nat :=
  if 48 ≤ c.toNat ∧ c.toNat ≤ 57 then some (c.toNat - 48) else none

/-- The value of a nonempty run of digits, most significant first. -/
def digits (base : Nat) (digit : Char → Option Nat) (cs : Chars) : Option Nat :=
  if cs.isEmpty then none
  else cs.foldl (fun n c => n.bind fun n => (digit c).map fun d => n * base + d) (some 0)

/-- A number, "decimal, or hex with 0x", that fits the immediate. DESIGN CHOICE (log 11), safe: leading zeros are allowed, a
number of 2^16 or more is none, and `0X` is not `0x`. -/
def number (cs : Chars) : Option Half :=
  let value :=
    match cs with
    | '0' :: 'x' :: ds => digits 16 hexDigit ds
    | ds => digits 10 decDigit ds
  value.bind fun n => if n < 2 ^ 16 then some (BitVec.ofNat 16 n) else none

/-- A hex pair of an input buffer. -/
def hexPair : Chars → Option Byte
  | [h, l] => (hexDigit h).bind fun h => (hexDigit l).map fun l => BitVec.ofNat 8 (16 * h + l)
  | _ => none

/-- All of a list of optional values, or none. -/
def collect {α : Type} : List (Option α) → Option (List α)
  | [] => some []
  | x :: xs => x.bind fun a => (collect xs).map (a :: ·)

/-! ## Key tokens (R40, R44) -/

/-- The token number of a key token (R40). -/
def tok : KeyToken → Byte
  | .d0 => 0
  | .d1 => 1
  | .d2 => 2
  | .d3 => 3
  | .d4 => 4
  | .d5 => 5
  | .d6 => 6
  | .d7 => 7
  | .d8 => 8
  | .d9 => 9
  | .menu => 10
  | .up => 11
  | .down => 12
  | .exit => 13
  | .star => 14
  | .hash => 15
  | .ptt => 16
  | .f2 => 17
  | .f1 => 18

/-- The names of the tokens (R44). -/
def tokenNames : List (String × KeyToken) :=
  [("0", .d0), ("1", .d1), ("2", .d2), ("3", .d3), ("4", .d4), ("5", .d5), ("6", .d6), ("7", .d7), ("8", .d8), ("9", .d9)] ++
  [("menu", .menu), ("up", .up), ("down", .down), ("exit", .exit), ("*", .star), ("#", .hash), ("ptt", .ptt), ("f2", .f2),
    ("f1", .f1)]

/-- The token a word names. -/
def token (cs : Chars) : Option KeyToken :=
  (tokenNames.find? fun p => p.1.toList == cs).map (·.2)

/-! ## Lines -/

/-- How a mnemonic takes its immediate (R42, R44). -/
inductive ImmForm where
  | unused
  | number
  | token
  deriving DecidableEq, Repr

/-- The mnemonics with their `OP` (R42). -/
def mnemonics : List (String × Byte × ImmForm) :=
  [("CRC16", 0x01, .unused), ("CRC_TBL", 0x02, .number), ("CRC_INIT", 0x03, .unused), ("CRC_FEED", 0x04, .unused),
    ("CRC_READ", 0x05, .unused), ("XOR", 0x10, .unused), ("KS_INIT", 0x11, .unused), ("KS_XOR", 0x12, .unused)] ++
  [("FRAME_ENC", 0x20, .number), ("FRAME_DEC", 0x21, .unused), ("RSYNC_CHECK", 0x30, .unused),
    ("RSYNC_SCAN", 0x31, .unused), ("KEYCODE", 0x40, .token), ("KEY_FRAME", 0x41, .token),
    ("KEY_FRAME_CODE", 0x42, .number)]

/-- The immediate a word stands for: a token name where the mnemonic takes one, or a number. -/
def immediate (form : ImmForm) (cs : Chars) : Option Half :=
  match form with
  | .token => ((token cs).map fun t => byteImm (tok t)).or (number cs)
  | .number => number cs
  | .unused => number cs

/-- `A=` and its hex pairs; "an omitted A= is the empty buffer" (R44). DESIGN CHOICE (log 11), safe: a space may stand between
`A=` and the first hex pair, which R44 does not say. -/
def buffer : List Chars → Option Bytes
  | [] => some []
  | ('A' :: '=' :: first) :: rest =>
    collect (((first :: rest).filter fun w => !w.isEmpty).map hexPair)
  | _ :: _ => none

/-- The request word of a line: `zext_32(OP) | (imm << 8)` (R44). -/
def lineWord (op : Byte) (imm : Half) : Word := op.setWidth 32 ||| (imm.setWidth 32 <<< 8)

/-- What follows the immediate: nothing, or a comma and the buffer (R44). -/
def commaBuffer : List Chars → Option Bytes
  | [] => some []
  | [','] :: w :: more => buffer (w :: more)
  | _ :: _ => none

/-- The rest of a line after a mnemonic. DESIGN CHOICE (log 11), safe: where there is no immediate the comma before `A=` may
be left out, as the spec's own examples do; an immediate is left out only where the operation takes none. -/
def request (op : Byte) (form : ImmForm) (rest : List Chars) : Option HostEvent :=
  match rest with
  | [] => if form = .unused then some (.request (lineWord op 0) []) else none
  | w :: more =>
    if w = [','] then
      if form = .unused then (commaBuffer (w :: more)).map fun a => .request (lineWord op 0) a else none
    else if w.take 2 = ['A', '='] then
      if form = .unused then (buffer (w :: more)).map fun a => .request (lineWord op 0) a else none
    else (immediate form w).bind fun imm => (commaBuffer more).map fun a => .request (lineWord op imm) a

/-- The expansion of `CRC_STREAM A=s` (R44). DESIGN CHOICE (log 11), safe: the line is as the table of pseudo-instructions
writes it, with no comma before `A=`. -/
def crcStream (a : Bytes) : List HostEvent := [.request (lineWord 0x03 0) [], .request (lineWord 0x04 0) a]

/-- The expansion of `KEY_SEQ t1 ... tk` (R44). DESIGN CHOICE (log 11), safe: the spec does not say whether k = 0 is a line;
here it is one, and it stands for no request. Nor does it say whether a ti may be a number, as the operand of KEY_FRAME may;
here it is a token name. -/
def keySeq (ts : List KeyToken) : List HostEvent := ts.map fun t => .request (lineWord 0x41 (byteImm (tok t))) []

/-- The requests a line of words stands for. DESIGN CHOICE (log 11), safe: `KEY_SEQ` with no token is a line that stands for
no request, and takes token names only, no number but the digit tokens; `CRC_STREAM` with no `A=`
feeds the empty buffer, and with a comma before `A=` it is no line; an empty line is none. -/
def assembleWords : List Chars → Option (List HostEvent)
  | [] => none
  | m :: rest =>
    if m = "CRC_STREAM".toList then (buffer rest).map crcStream
    else if m = "KEY_SEQ".toList then (collect (rest.map token)).map keySeq
    else
      (mnemonics.find? fun p => p.1.toList == m).bind fun p => (request p.2.1 p.2.2 rest).map fun e => [e]

/-- The requests a line stands for. -/
def assemble (line : String) : Option (List HostEvent) := assembleWords (splitWords line.toList)

end Sys2Proof.Machine.Asm
end

