-- ==== Sys2Proof/Machine/HostProc.lean ====
section
/-! DEFINITION. The host's procedures: the resynchronizing read (spec 43_resync.md R69, R70) and the key sequence
(44_keypress.md R79), performed with QPFC's step. The serial line and the device are outside QPFC (00_scope.md R5): what a
read returns, and whether a key sent too early is taken, are arguments. -/

namespace Sys2Proof.Machine

/-- The host issues one request, ahead of anything else it does, and reads its response (10_state.md R11). -/
def transact (w : Word) (a : Bytes) (s : State) : Option (Response × State) :=
  match step { s with inbox := .request w a :: s.inbox } with
  | .next t => t.response.map fun r => (r, t)
  | .fault _ => none
  | .refused _ => none

/-! ## The serial line -/

/-- The serial collaborator as the host sees it: the bytes that arrive, and for each read how many its bounded wait
delivers. Both are draws (92_eei_decisions.md D27; 93_implementation_defined.md I2; log 10). -/
structure Serial where
  line : Bytes
  draws : List Nat
  deriving DecidableEq, Repr

/-- `SerialRead(m)`: 0 to m bytes (R69). -/
def serialRead (m : Nat) (l : Serial) : Bytes × Serial :=
  let n := min (l.draws.headD 0) m
  (l.line.take n, { line := l.line.drop n, draws := l.draws.tail })

/-- `RESYNC(N)` (R69), N = 0 included (R70). A response is taken by its fields, an ERR_LEN too: not framed, then the empty
`OUT` (60_exceptions.md R81). DEDUCED (log 10), safe. -/
def resync (n : Nat) (l : Serial) (s : State) : Option (Bytes × Serial × State) :=
  let (s1, l1) := serialRead n l
  (transact (encode .rsyncCheck) s1 s).bind fun (check, t) =>
    if check.flags.getLsbD 0 then some (s1, l1, t)
    else
      let (s2, l2) := serialRead resyncExtra l1
      (transact (encode .rsyncScan) (s1 ++ s2) t).map fun (r, u) => (r.out, l2, u)

/-! ## Keys -/

/-- What the host does on the serial line and the clock while it presses keys (R79). -/
inductive HostAction where
  | serialWrite (frame : Bytes)
  | receive (count : Nat)
  | wait (ms : Nat)
  deriving DecidableEq, Repr

/-- One key of a sequence: send the frame, receive 0 bytes, wait the settle interval (R79; 70_reset_and_hazards.md R97,
R99). DESIGN CHOICE (log 16), safe: the receive is a plain one, not RESYNC(0). -/
def pressActions (frame : Bytes) : List HostAction := [.serialWrite frame, .receive 0, .wait settleMs]

/-- `PRESS([t1, ..., tk])` (R79), strictly in order (70_reset_and_hazards.md R98). DESIGN CHOICE (log 16), safe: whether the
receive of 0 bytes goes through RESYNC is left to the host (43_resync.md R70, 90_conflicts.md C4); here it does not, so that
KEY_FRAME is the only request. -/
def press : List KeyToken → State → Option (List HostAction × State)
  | [], s => some ([], s)
  | t :: ts, s =>
    (transact (encode (.keyFrame (Asm.tok t))) [] s).bind fun (r, u) =>
      (press ts u).map fun (acts, v) => (pressActions r.out ++ acts, v)

/-- Whether the device takes a keypress frame sent `gapMs` after the previous one: after the wait it does, before it that
is a draw (70_reset_and_hazards.md R97; 93_implementation_defined.md I12; log 12). -/
def deviceTakes (gapMs : Nat) (draw : Bool) : Bool := if settleMs ≤ gapMs then true else draw

end Sys2Proof.Machine
end

