-- ==== Sys2Proof/Safety.lean ====
section
/-! DEFINITION. What counts as a safe run: the duties of the host (spec 70_reset_and_hazards.md R95, R97) and the invariant of
the machine. -/

namespace Sys2Proof.Safety

open Sys2Proof.Machine

/-- The host issues no request while the block is in reset (R95): `held` says whether the block is in reset before the
first event. -/
def hostObeysReset : Bool → List HostEvent → Bool
  | _, [] => true
  | held, .request _ _ :: rest => !held && hostObeysReset held rest
  | _, .resetAssert :: rest => hostObeysReset true rest
  | _, .resetRelease :: rest => hostObeysReset false rest

/-- Each frame is written only after the settle interval of the frame before it has passed, and the last frame's has passed
at the end (R97, 44_keypress.md R79): `owed` is the part of the interval still to wait. -/
def settleKept : Nat → List HostAction → Bool
  | owed, [] => owed == 0
  | owed, .serialWrite _ :: rest => owed == 0 && settleKept settleMs rest
  | owed, .receive _ :: rest => settleKept owed rest
  | owed, .wait ms :: rest => settleKept (owed - ms) rest

/-- The form of every response (30_encoding.md R35, R41; 60_exceptions.md R81, R82): an error has every field 0 but a
FRAME_ERR's reason, 1 or 2; flag bits 7 to 2 are never set. -/
abbrev responseForm (r : Response) : Prop :=
  (r.status.isError = true → r.flags = 0 ∧ r.v1 = 0 ∧ r.v2 = 0 ∧ r.v3 = 0 ∧ r.out = []) ∧
  (r.status = .frameErr → r.v0 = 1 ∨ r.v0 = 2) ∧
  (r.status.isError = true → r.status ≠ .frameErr → r.v0 = 0) ∧
  (r.status = .notFound → r.flags = 0 ∧ r.v0 = 0 ∧ r.v1 = 0 ∧ r.v2 = 0 ∧ r.v3 = 0) ∧
  r.flags.toNat < 4

/-- The invariant of the machine between steps: no input buffer is kept (20_memory.md R23), and a standing response has the
form of one. That a block HELD in reset has its reset values and no response is the model's own clause. DEDUCED (log 7),
unsafe: 70_reset_and_hazards.md R94 gives the values after reset. -/
structure StateInv (s : State) : Prop where
  bufferDropped : s.inA = []
  resetHeld : s.inReset = true → s.crcAcc = 0 ∧ s.ksIdx = 0 ∧ s.response = none
  responseFormed : ∀ r, s.response = some r → responseForm r

end Sys2Proof.Safety
end

