-- ==== Sys2Proof/Certificates/Slice0/Obligations.lean ====
section
/-! DEFINITION. The statements for the provers. Each docstring names the rules of spec/ it formalises. -/

open Sys2Proof Sys2Proof.Machine Sys2Proof.Safety

namespace Sys2Proof.Stmt

/-! ## Words the statements share -/

/-- The state a request leaves: the two registers, the response, and everything else as before, the buffer dropped. -/
def answer (s : State) (crc : Half) (ks : BitVec 4) (r : Response) : State :=
  { s with crcAcc := crc, ksIdx := ks, response := some r, inA := [] }

/-- The state of a request that writes no register. -/
def answerOnly (s : State) (r : Response) : State := answer s s.crcAcc s.ksIdx r

/-- `|A| ≤ P_MAX_BUF` (R32). -/
def readable (s : State) : Prop := s.inA.length ≤ s.params.maxBuf.toNat

/-- The next request of the host is the word w with buffer a, and the block is out of reset. -/
def requested (s : State) (w : Word) (a : Bytes) (rest : List HostEvent) : Prop :=
  s.inbox = .request w a :: rest ∧ s.inReset = false

/-- A request with the word w ends with ERR_OP, whatever its buffer, and changes no register (R43, R81). -/
def endsErrOp (w : Word) : Prop :=
  ∀ s a rest, requested s w a rest → step s = .next (answerOnly { s with inbox := rest } { status := .errOp })

/-- The encoding of an operation that takes no immediate: its word, and ERR_OP for IMM ≠ 0 or RSV ≠ 0 (R34, R42). -/
def noImmEncoding (op : Byte) (i : Instr) : Prop :=
  decode (op.setWidth 32) = .ok i ∧ ∀ w, opField w = op → (immField w ≠ 0 ∨ rsvField w ≠ 0) → endsErrOp w

/-- The encoding of an operation with a byte operand: its words, and ERR_OP for IMM[15:8] ≠ 0 or RSV ≠ 0. -/
def byteEncoding (op : Byte) (i : Byte → Instr) : Prop :=
  (∀ b : Byte, decode (op.setWidth 32 ||| (b.setWidth 32 <<< 8)) = .ok (i b)) ∧
    ∀ w, opField w = op → (immHigh w ≠ 0 ∨ rsvField w ≠ 0) → endsErrOp w

/-- The encoding of an operation with a 16-bit operand: its words, and ERR_OP for RSV ≠ 0. -/
def halfEncoding (op : Byte) (i : Half → Instr) : Prop :=
  (∀ v : Half, decode (op.setWidth 32 ||| (v.setWidth 32 <<< 8)) = .ok (i v)) ∧
    ∀ w, opField w = op → rsvField w ≠ 0 → endsErrOp w

/-- An operation that reads A ends with ERR_LEN on a buffer longer than `P_MAX_BUF`, and changes no register. -/
def longBufferErrLen (i : Instr) : Prop :=
  ∀ s, ¬ readable s → exec i s = .next (answerOnly s { status := .errLen })

/-- The operations that read A (R42, column A). -/
def readsBuffer : Instr → Bool
  | .crc16 | .crcFeed | .xor | .ksXor | .frameEnc _ | .frameDec | .rsyncCheck | .rsyncScan => true
  | .crcTbl _ | .crcInit | .crcRead | .ksInit | .keycode _ | .keyFrame _ | .keyFrameCode _ => false

/-- R43's illegal words, by the numbers of R33, R34 and R43. -/
def illegal (w : Word) : Prop :=
  let op := w.toNat % 256
  let imm := w.toNat / 256 % 65536
  let rsv := w.toNat / 16777216
  rsv ≠ 0 ∨
  (op = 0 ∨ (0x06 ≤ op ∧ op ≤ 0x0F) ∨ (0x13 ≤ op ∧ op ≤ 0x1F) ∨ (0x22 ≤ op ∧ op ≤ 0x2F) ∨ (0x32 ≤ op ∧ op ≤ 0x3F) ∨
    (0x43 ≤ op ∧ op ≤ 0xFF)) ∨
  (op ∈ [0x01, 0x03, 0x04, 0x05, 0x10, 0x11, 0x12, 0x21, 0x30, 0x31] ∧ imm ≠ 0) ∨
  (op ∈ [0x02, 0x40, 0x41] ∧ 256 ≤ imm)

/-- The check value's message "123456789". -/
def digitsMessage : Bytes := [0x31, 0x32, 0x33, 0x34, 0x35, 0x36, 0x37, 0x38, 0x39]

/-- The frame of vector FC1, under the default key. -/
def frameFC1 : Bytes := [0xAB, 0xCD, 0x05, 0x00, 0x22, 0x7E, 0x15, 0xE6, 0x2F, 0xA7, 0x59, 0xDC, 0xBA]

/-- Key byte j of the block: `KEY[j mod 16]` (R53). -/
def keyAt (s : State) (j : Nat) : Byte := s.params.key[j % 16]'(Nat.mod_lt _ (by decide))

/-- The leading marker AB CD stands at index i. -/
def leadAt (a : Bytes) (i : Nat) : Prop := a[i]? = some 0xAB ∧ a[i + 1]? = some 0xCD

/-- The trailing marker DC BA stands at index j. -/
def trailAt (a : Bytes) (j : Nat) : Prop := a[j]? = some 0xDC ∧ a[j + 1]? = some 0xBA

/-- The buffer starts with AB CD and ends with DC BA. -/
def bothMarkers (a : Bytes) : Prop := ∃ mid : Bytes, a = [0xAB, 0xCD] ++ mid ++ [0xDC, 0xBA]

/-- The length field of a raw frame, bytes 2 and 3, little-endian. -/
def lengthField (a : Bytes) : Nat := (a.getD 2 0).toNat + 256 * (a.getD 3 0).toNat

/-- A raw buffer that FRAME_DEC's checks reject: a marker is absent or the length is inconsistent (R62). -/
def failsFrameCheck (a : Bytes) : Prop :=
  ¬ bothMarkers a ∨ a.length < 8 ∨ lengthField a + 8 ≠ a.length ∨ lengthField a < 4

/-- Somewhere a trailing marker stands after a leading marker and does not overlap it (R68). -/
def hasMarkedRange (a : Bytes) : Prop := ∃ i j, leadAt a i ∧ i + 2 ≤ j ∧ trailAt a j

/-- Byte j of the deciphered part of a raw frame: frame offset 4 + j with key index j mod 16 (R55). -/
def plainAt (s : State) (j : Nat) : Byte := s.inA.getD (4 + j) 0 ^^^ keyAt s j

/-- The deciphered inner block of a raw frame whose length field is n. -/
def plainInner (s : State) (n : Nat) : Bytes := (List.range n).map (plainAt s)

/-! ## Polynomials over GF(2) (R52) -/

open Polynomial in
/-- A byte or a CRC value as a polynomial: bit i is the coefficient of x^i. -/
noncomputable def bitsPoly {n : Nat} (v : BitVec n) : (ZMod 2)[X] :=
  ∑ i ∈ Finset.range n, if v.getLsbD i then X ^ i else 0

open Polynomial in
/-- A byte sequence as a polynomial, the first byte the most significant and each byte's bit 7 first. -/
noncomputable def messagePoly (s : Bytes) : (ZMod 2)[X] := s.foldl (fun p b => p * X ^ 8 + bitsPoly b) 0

open Polynomial in
/-- The generator x^16 + x^12 + x^5 + 1 (R45). -/
noncomputable def generatorPoly : (ZMod 2)[X] := X ^ 16 + X ^ 12 + X ^ 5 + 1

end Sys2Proof.Stmt

open Sys2Proof.Stmt

/-! ## Reset, requests, encoding -/

/-- R13, R14, R94: the reset values, and that a reset of any running block gives them and leaves the ROM's parameters. The
events that put the block in reset are the model's own (log 7). -/
def Obligations.ResetGivesResetValues : Prop :=
  (State.reset.crcAcc = 0x0000 ∧ State.reset.ksIdx = 0 ∧ State.reset.response = none ∧ State.reset.inReset = false) ∧
  ∀ s rest, s.inbox = .resetAssert :: .resetRelease :: rest →
    ∃ t, core.run 2 s = .next t ∧ t.crcAcc = 0x0000 ∧ t.ksIdx = 0 ∧ t.response = none ∧ t.inReset = false ∧
      t.params = s.params ∧ t.inbox = rest

/-- R95, I5: a request during reset is refused by name; no value is returned for it. -/
def Obligations.RequestDuringResetIsRefused : Prop :=
  ∀ s w a rest, s.inbox = .request w a :: rest → s.inReset = true → step s = .refused .requestDuringReset

/-- R11, R12; DEDUCED, log 6: with no event at its ports the block changes nothing. -/
def Obligations.IdleChangesNothing : Prop := ∀ s : State, s.inbox = [] → step s = .next s

/-- R42: words written out from the opcode map decode to their operations. -/
def Obligations.SpecWordsDecode : Prop :=
  decode 0x00000001 = .ok .crc16 ∧ decode 0x0000FF02 = .ok (.crcTbl 0xFF) ∧ decode 0x00000004 = .ok .crcFeed ∧
  decode 0x00000012 = .ok .ksXor ∧ decode 0x00123420 = .ok (.frameEnc 0x1234) ∧ decode 0x00000021 = .ok .frameDec ∧
  decode 0x00000031 = .ok .rsyncScan ∧ decode 0x00000B41 = .ok (.keyFrame 11) ∧
  decode 0x00012042 = .ok (.keyFrameCode 0x0120)

/-- R29, R33: when the host's next request is a word that decodes to i, the step takes the request off the host's list and
is exec of i on the state with the request's buffer at port A. -/
def Obligations.StepRunsDecodedInstruction : Prop :=
  ∀ s w a rest i, requested s w a rest → decode w = .ok i → step s = exec i { s with inbox := rest, inA := a }

/-- R43: every illegal word ends with ERR_OP and changes no state. -/
def Obligations.IllegalWordEndsErrOp : Prop := ∀ w, illegal w → endsErrOp w

/-- R42, R43: the words that decode to an operation are exactly those that are not illegal. -/
def Obligations.LegalWordsAreExactlyThoseDecoded : Prop := ∀ w, (∃ i, decode w = .ok i) ↔ ¬ illegal w

/-- R33, R34, R42: a word decodes to an instruction exactly when it is that instruction's encoding: no bit is dropped, and
each word has one meaning. -/
def Obligations.DecodeInvertsEncode : Prop := ∀ w i, decode w = .ok i ↔ encode i = w

/-! ## CRC16 generator -/

/-- R47. -/
def Obligations.Crc16Request : Prop :=
  noImmEncoding 0x01 .crc16 ∧ longBufferErrLen .crc16 ∧
  (∀ s, readable s → exec .crc16 s = .next (answerOnly s { status := .ok, v0 := (crc16 s.inA).setWidth 32 })) ∧
  crc16 [] = 0x0000 ∧ (∀ n, crc16 (List.replicate n 0x00) = 0x0000) ∧
  (∀ n s, crc16 (List.replicate n 0x00 ++ s) = crc16 s) ∧ crc16 digitsMessage = 0x31C3

/-- R48, R18: the table entry is the byte-wise CRC step from register value 0, for every index. -/
def Obligations.CrcTblRequest : Prop :=
  byteEncoding 0x02 .crcTbl ∧
  (∀ index s, exec (.crcTbl index) s = .next (answerOnly s { status := .ok, v0 := (crcBit8 0x0000 index).setWidth 32 })) ∧
  crcBit8 0x0000 0x00 = 0x0000 ∧ crcBit8 0x0000 0xFF = 0x1EF0 ∧ crcBit8 0x0000 0x01 = 0x1021

/-- R49. -/
def Obligations.CrcInitRequest : Prop :=
  noImmEncoding 0x03 .crcInit ∧
  (∀ s, exec .crcInit s = .next (answer s 0x0000 s.ksIdx { status := .ok })) ∧
  (∀ s t, exec .crcInit s = .next t → exec .crcInit t = .next t) ∧ State.reset.crcAcc = 0x0000 ∧
  ∀ s a b rest, requested s 0x00000003 a (.request 0x00000005 b :: rest) →
    ∃ t, core.run 2 s = .next t ∧ t.response = some { status := .ok, v0 := 0x0000 }

/-- R50. -/
def Obligations.CrcFeedRequest : Prop :=
  noImmEncoding 0x04 .crcFeed ∧ longBufferErrLen .crcFeed ∧
  (∀ s, readable s → exec .crcFeed s =
    .next (answer s (crc16From s.inA s.crcAcc) s.ksIdx
      { status := .ok, v0 := (crc16From s.inA s.crcAcc).setWidth 32 })) ∧
  (∀ c, crc16From [] c = c) ∧ (∀ s t c, crc16From t (crc16From s c) = crc16From (s ++ t) c) ∧
  (∀ s, crc16From s 0x0000 = crc16 s) ∧ crc16From [0x34, 0x12] 0x0000 = 0xFB22 ∧
  crc16From [0x01, 0x00, 0x01] 0xFB22 = 0x5436 ∧ crc16 [0x34, 0x12, 0x01, 0x00, 0x01] = 0x5436

/-- R51. -/
def Obligations.CrcReadRequest : Prop :=
  noImmEncoding 0x05 .crcRead ∧
  (∀ s, exec .crcRead s = .next (answerOnly s { status := .ok, v0 := s.crcAcc.setWidth 32 })) ∧
  State.reset.crcAcc = 0x0000 ∧
  ∀ s b c rest, 9 ≤ s.params.maxBuf.toNat →
    requested s 0x00000003 b (.request 0x00000004 digitsMessage :: .request 0x00000005 c :: rest) →
    ∃ t, core.run 3 s = .next t ∧ t.response = some { status := .ok, v0 := 0x31C3 }

/-- R46: one table lookup is the eight shifts of R45, for every register value and byte. -/
def Obligations.TableStepIsBitStep : Prop := ∀ c b, crcStep c b = crcBit8 c b

/-- R52: the laws of the CRC. -/
def Obligations.CrcLaws : Prop :=
  crc16 [] = 0x0000 ∧
  (∀ s t, crc16 (s ++ t) = crc16From t (crc16 s)) ∧
  (∀ s t : Bytes, s.length = t.length → crc16 (List.zipWith (· ^^^ ·) s t) = crc16 s ^^^ crc16 t) ∧
  (∀ b, crc16 [b] = crcTable b) ∧
  (∀ s, crc16 (s ++ [(crc16 s).extractLsb' 8 8, (crc16 s).extractLsb' 0 8]) = 0x0000) ∧
  crc16 (digitsMessage ++ [0xC3, 0x31]) = 0xBAFE

/-- R45, R52: the CRC of a buffer is the remainder of the message, followed by 16 zero bits, on division by
x^16 + x^12 + x^5 + 1 over GF(2). -/
def Obligations.CrcIsPolynomialRemainder : Prop :=
  ∀ s : Bytes, bitsPoly (crc16 s) = Polynomial.modByMonic (messagePoly s * Polynomial.X ^ 16) generatorPoly

/-- R29, R49 to R51: CRC_INIT, then CRC_FEED of any list of buffers, then CRC_READ gives CRC16 of their concatenation. -/
def Obligations.StreamedCrcIsBufferCrc : Prop :=
  ∀ (s : State) (chunks : List Bytes) (rest : List HostEvent), s.inReset = false →
    (∀ c ∈ chunks, c.length ≤ s.params.maxBuf.toNat) →
    s.inbox = .request 0x00000003 [] ::
      (chunks.map (HostEvent.request 0x00000004) ++ .request 0x00000005 [] :: rest) →
    core.run (chunks.length + 2) s = .next
      { s with
        crcAcc := crc16 chunks.flatten
        response := some { status := .ok, v0 := (crc16 chunks.flatten).setWidth 32 }
        inA := []
        inbox := rest }

/-! ## XOR keystream cipher -/

/-- R57: OUT is A with byte j combined with key byte j mod 16. -/
def Obligations.XorRequest : Prop :=
  noImmEncoding 0x10 .xor ∧ longBufferErrLen .xor ∧
  ∀ s, readable s → ∃ out : Bytes, exec .xor s = .next (answerOnly s { status := .ok, out := out }) ∧
    out.length = s.inA.length ∧ (∀ j, out[j]? = s.inA[j]?.map (· ^^^ keyAt s j)) ∧
    exec .xor { s with inA := out } = .next (answerOnly s { status := .ok, out := s.inA }) ∧
    (s.params.key = defaultKey → s.inA = [0x00, 0x00, 0x00, 0x00] → out = [0x16, 0x6C, 0x14, 0xE6])

/-- R58. -/
def Obligations.KsInitRequest : Prop :=
  noImmEncoding 0x11 .ksInit ∧
  (∀ s, exec .ksInit s = .next (answer s s.crcAcc 0 { status := .ok })) ∧
  (∀ s t, exec .ksInit s = .next t → exec .ksInit t = .next t) ∧ State.reset.ksIdx = 0 ∧
  ∀ s b rest, 1 ≤ s.params.maxBuf.toNat → s.params.key = defaultKey →
    requested s 0x00000011 b (.request 0x00000012 [0x00] :: rest) →
    ∃ t, core.run 2 s = .next t ∧ t.response = some { status := .ok, out := [0x16] }

/-- R59: OUT is A with byte j combined with key byte (KS_IDX + j) mod 16, and KS_IDX moves on by |A| mod 16. -/
def Obligations.KsXorRequest : Prop :=
  noImmEncoding 0x12 .ksXor ∧ longBufferErrLen .ksXor ∧
  (∀ s, readable s → ∃ (out : Bytes) (k : BitVec 4),
    exec .ksXor s = .next (answer s s.crcAcc k { status := .ok, out := out }) ∧
    out.length = s.inA.length ∧ (∀ j, out[j]? = s.inA[j]?.map (· ^^^ keyAt s (s.ksIdx.toNat + j))) ∧
    k.toNat = (s.ksIdx.toNat + s.inA.length) % 16 ∧ (s.inA = [] → out = [] ∧ k = s.ksIdx) ∧
    (16 ∣ s.inA.length → k = s.ksIdx)) ∧
  (∀ s b x y rest, x.length ≤ s.params.maxBuf.toNat → y.length ≤ s.params.maxBuf.toNat →
    requested s 0x00000011 b (.request 0x00000012 x :: .request 0x00000012 y :: rest) →
    ∃ t u o p, core.run 2 s = .next t ∧ t.response = some { status := .ok, out := o } ∧ step t = .next u ∧
      u.response = some { status := .ok, out := p } ∧ o ++ p = xork s.params.key (x ++ y) 0) ∧
  ∀ s b rest, 4 ≤ s.params.maxBuf.toNat → s.params.key = defaultKey →
    requested s 0x00000011 b
      (.request 0x00000012 [0x34, 0x12, 0x01] :: .request 0x00000012 [0x00, 0x01, 0x36, 0x54] :: rest) →
    ∃ t u, core.run 2 s = .next t ∧ t.response = some { status := .ok, out := [0x22, 0x7E, 0x15] } ∧ t.ksIdx = 3 ∧
      step t = .next u ∧ u.response = some { status := .ok, out := [0xE6, 0x2F, 0xA7, 0x59] } ∧ u.ksIdx = 7

/-- R56: the laws of the cipher, for every key and every start index 0 to 15. -/
def Obligations.CipherLaws : Prop :=
  (∀ key s k0, k0 < 16 → xork key (xork key s k0) k0 = s) ∧
  (∀ key (s : Bytes) k0 j x y, k0 < 16 → s[j]? = some x → s[j + 16]? = some y →
    ((xork key s k0).getD j 0 ^^^ x) = ((xork key s k0).getD (j + 16) 0 ^^^ y)) ∧
  (∀ key (s t : Bytes) k0, k0 < 16 → xork key (s ++ t) k0 = xork key s k0 ++ xork key t ((k0 + s.length) % 16)) ∧
  (∀ key m, xork key (List.replicate m 0x00) 0 = (List.range m).map fun j => keyByte key j) ∧
  (∀ key (s : Bytes) k0, k0 < 16 → (xork key s k0 = s ↔ ∀ j, j < s.length → keyByte key (k0 + j) = 0x00)) ∧
  ∀ j, keyByte defaultKey j ≠ 0x00

/-- R29, R58, R59, R56: after KS_INIT, KS_XOR of any list of buffers and then of one more deciphers that buffer at its place
in the keystream of the whole: its output is the last part of XORK of the concatenation. -/
def Obligations.StreamedCipherIsBufferCipher : Prop :=
  ∀ (s : State) (chunks : List Bytes) (last : Bytes) (rest : List HostEvent), s.inReset = false →
    (∀ c ∈ chunks, c.length ≤ s.params.maxBuf.toNat) → last.length ≤ s.params.maxBuf.toNat →
    s.inbox = .request 0x00000011 [] ::
      (chunks.map (HostEvent.request 0x00000012) ++ .request 0x00000012 last :: rest) →
    ∃ t, core.run (chunks.length + 2) s = .next t ∧ t.crcAcc = s.crcAcc ∧ t.params = s.params ∧ t.inbox = rest ∧
      t.ksIdx.toNat = (chunks.flatten.length + last.length) % 16 ∧
      t.response = some { status := .ok
                          out := (xork s.params.key (chunks.flatten ++ last) 0).drop chunks.flatten.length }

/-! ## Frame codec -/

/-- R61: FRAME_ENC; the last clause is a frame that holds a marker pattern in its ciphered part. -/
def Obligations.FrameEncRequest : Prop :=
  halfEncoding 0x20 .frameEnc ∧ (∀ ct, longBufferErrLen (.frameEnc ct)) ∧
  (∀ ct s, 65531 < s.inA.length → exec (.frameEnc ct) s = .next (answerOnly s { status := .errLen })) ∧
  (∀ ct s, readable s → s.inA.length ≤ 65531 →
    exec (.frameEnc ct) s = .next (answerOnly s
      { status := .ok
        v0 := (crc16 (le16 ct ++ le16 (BitVec.ofNat 16 s.inA.length) ++ s.inA)).setWidth 32
        v1 := BitVec.ofNat 32 (s.inA.length + 4)
        out := frameEncode s.params.key ct s.inA }) ∧
    (frameEncode s.params.key ct s.inA).length = s.inA.length + 12) ∧
  (∀ s, readable s → s.params.key = defaultKey → s.inA = [0x01] →
    exec (.frameEnc 0x1234) s =
      .next (answerOnly s { status := .ok, v0 := 0x5436, v1 := 5, out := frameFC1 })) ∧
  frameEncode defaultKey 0x1234 [0xF2, 0x2B, 0x00] =
    [0xAB, 0xCD, 0x07, 0x00, 0x22, 0x7E, 0x17, 0xE6, 0xDC, 0xBA, 0x0D, 0x33, 0x91, 0xDC, 0xBA]

/-- R36, R37: the byte map of a frame, offset by offset. -/
def Obligations.FrameByteMap : Prop :=
  ∀ ct s, readable s → s.inA.length ≤ 65531 →
    ∃ r, exec (.frameEnc ct) s = .next (answerOnly s r) ∧
      let n := s.inA.length
      let crc := crc16 (le16 ct ++ le16 (BitVec.ofNat 16 n) ++ s.inA)
      r.out.length = n + 12 ∧
      r.out.take 2 = [0xAB, 0xCD] ∧
      (r.out.drop 2).take 2 = [BitVec.ofNat 8 (n + 4), BitVec.ofNat 8 ((n + 4) / 256)] ∧
      r.out[4]? = some (ct.extractLsb' 0 8 ^^^ keyAt s 0) ∧
      r.out[5]? = some (ct.extractLsb' 8 8 ^^^ keyAt s 1) ∧
      r.out[6]? = some (BitVec.ofNat 8 n ^^^ keyAt s 2) ∧
      r.out[7]? = some (BitVec.ofNat 8 (n / 256) ^^^ keyAt s 3) ∧
      (∀ j, j < n → r.out[8 + j]? = s.inA[j]?.map (· ^^^ keyAt s (4 + j))) ∧
      r.out[8 + n]? = some (crc.extractLsb' 0 8 ^^^ keyAt s (4 + n)) ∧
      r.out[9 + n]? = some (crc.extractLsb' 8 8 ^^^ keyAt s (5 + n)) ∧
      r.out.drop (10 + n) = [0xDC, 0xBA]

/-- R62: the decode checks: when FRAME_DEC answers FRAME_ERR, with which reason (MARKER before LENGTH), and that it does
not otherwise. -/
def Obligations.FrameDecChecks : Prop :=
  noImmEncoding 0x21 .frameDec ∧ longBufferErrLen .frameDec ∧
  (∀ s, readable s → ¬ bothMarkers s.inA →
    exec .frameDec s = .next (answerOnly s { status := .frameErr, v0 := 1 })) ∧
  (∀ s, readable s → bothMarkers s.inA →
    (s.inA.length < 8 ∨ lengthField s.inA + 8 ≠ s.inA.length ∨ lengthField s.inA < 4) →
    exec .frameDec s = .next (answerOnly s { status := .frameErr, v0 := 2 })) ∧
  (∀ s, readable s → bothMarkers s.inA → 8 ≤ s.inA.length → lengthField s.inA + 8 = s.inA.length →
    4 ≤ lengthField s.inA → ∃ r, exec .frameDec s = .next (answerOnly s r) ∧ r.status = .ok)

/-- R63, R64, R66: a buffer that passes the check always decodes, and what the response holds, byte by byte. -/
def Obligations.FrameDecDecodes : Prop :=
  ∀ s, readable s → bothMarkers s.inA → lengthField s.inA + 8 = s.inA.length → 4 ≤ lengthField s.inA →
    ∃ r, exec .frameDec s = .next (answerOnly s r) ∧
      let n := lengthField s.inA
      let p := fun j => (plainAt s j).toNat
      r.status = .ok ∧
      r.v0.toNat = p 0 + 256 * p 1 ∧
      r.v1.toNat = p n + 256 * p (n + 1) ∧
      r.v2 = (crc16 (plainInner s n)).setWidth 32 ∧
      r.v3.toNat = p 2 + 256 * p 3 ∧
      r.out = (plainInner s n).drop 4 ∧
      (r.flags.getLsbD 0 = true ↔ r.v1 = r.v2) ∧
      (r.flags.getLsbD 1 = true ↔ r.v3.toNat = n - 4) ∧
      r.flags.toNat < 4

/-- R65: decode of encode is the identity, with both flags set. -/
def Obligations.FrameRoundTrip : Prop :=
  ∀ (ct : Half) (s u : State), readable s → s.inA.length ≤ 65531 → s.inA.length + 12 ≤ s.params.maxBuf.toNat →
    u.params = s.params →
    ∃ r, exec (.frameEnc ct) s = .next (answerOnly s r) ∧ r.status = .ok ∧
      (u.inA = r.out → exec .frameDec u = .next (answerOnly u
        { status := .ok
          flags := 0x03
          v0 := ct.setWidth 32
          v1 := (crc16 (le16 ct ++ le16 (BitVec.ofNat 16 s.inA.length) ++ s.inA)).setWidth 32
          v2 := (crc16 (le16 ct ++ le16 (BitVec.ofNat 16 s.inA.length) ++ s.inA)).setWidth 32
          v3 := BitVec.ofNat 32 s.inA.length
          out := s.inA }))

/-- R60 to R64: a buffer that FRAME_DEC decodes with both flags set is the frame FRAME_ENC builds from the decoded command
type and body: no other buffer is taken for a sound frame. -/
def Obligations.SoundFrameIsEncoded : Prop :=
  ∀ (s t u : State) (r : Response), readable s → exec .frameDec s = .next t → t.response = some r → r.status = .ok →
    r.flags = 0x03 → u.params = s.params → u.inA = r.out →
    ∃ q, exec (.frameEnc (r.v0.setWidth 16)) u = .next (answerOnly u q) ∧ q.status = .ok ∧ q.out = s.inA

/-- R36, R63, R64: a frame with one byte of its ciphered part changed still decodes with STATUS = OK, and CRC_OK is 0. -/
def Obligations.OneByteErrorClearsCrcOk : Prop :=
  ∀ (ct : Half) (body : Bytes) (o : Nat) (d : Byte) (s : State),
    body.length ≤ 65531 → 4 ≤ o → o < body.length + 10 → d ≠ 0 →
    s.inA = (frameEncode s.params.key ct body).modify o (· ^^^ d) → readable s →
    ∃ r, exec .frameDec s = .next (answerOnly s r) ∧ r.status = .ok ∧ r.flags.getLsbD 0 = false

/-- R36, R50, R59: the streaming engines build the same frame: CRC_FEED and KS_XOR over the inner block, started from
CRC_ACC = 0 and KS_IDX = 0, give the CRC and the ciphered bytes of FRAME_ENC. -/
def Obligations.StreamingEnginesBuildFrame : Prop :=
  ∀ (ct : Half) (s : State), s.inA.length ≤ 65531 → s.inA.length + 6 ≤ s.params.maxBuf.toNat →
    s.crcAcc = 0x0000 → s.ksIdx = 0 →
    ∃ (f : Response) (c : Half) (k : BitVec 4) (out : Bytes),
      exec (.frameEnc ct) s = .next (answerOnly s f) ∧
      (let inner := le16 ct ++ le16 (BitVec.ofNat 16 s.inA.length) ++ s.inA
       exec .crcFeed { s with inA := inner } =
          .next (answer s c s.ksIdx { status := .ok, v0 := f.v0 }) ∧
        exec .ksXor { s with inA := inner ++ le16 c } = .next (answer s s.crcAcc k { status := .ok, out := out }) ∧
        f.out = [0xAB, 0xCD] ++ le16 (BitVec.ofNat 16 inner.length) ++ out ++ [0xDC, 0xBA])

/-! ## Link resynchronizer -/

/-- R67, R71: FRAMED says that the buffer starts with the leading marker and ends with the trailing marker, nothing of the
length field. -/
def Obligations.RsyncCheckRequest : Prop :=
  noImmEncoding 0x30 .rsyncCheck ∧ longBufferErrLen .rsyncCheck ∧
  (∀ s, readable s → bothMarkers s.inA → exec .rsyncCheck s = .next (answerOnly s { status := .ok, flags := 0x01 })) ∧
  (∀ s, readable s → ¬ bothMarkers s.inA → exec .rsyncCheck s = .next (answerOnly s { status := .ok, flags := 0x00 }))

/-- R68, R72: the scan returns the leftmost leading marker closed by the first trailing marker after it (the last one under
`P_SCAN_MODE` = longest), and the raw buffer where there is no such pair. -/
def Obligations.RsyncScanRequest : Prop :=
  noImmEncoding 0x31 .rsyncScan ∧ longBufferErrLen .rsyncScan ∧
  (∀ s i j, readable s → leadAt s.inA i → (∀ i', i' < i → ¬ leadAt s.inA i') → i + 2 ≤ j → trailAt s.inA j →
    (s.params.scanMode = .shortest → ∀ j', i + 2 ≤ j' → j' < j → ¬ trailAt s.inA j') →
    (s.params.scanMode = .longest → ∀ j', j < j' → ¬ trailAt s.inA j') →
    exec .rsyncScan s = .next (answerOnly s
      { status := .ok, v0 := BitVec.ofNat 32 i, v1 := BitVec.ofNat 32 (j + 2 - i), out := (s.inA.take (j + 2)).drop i })) ∧
  (∀ s, readable s → (∀ i j, leadAt s.inA i → i + 2 ≤ j → ¬ trailAt s.inA j) →
    exec .rsyncScan s = .next (answerOnly s { status := .notFound, out := s.inA }))

/-- R67, R68: whatever RSYNC_SCAN finds is framed, and lies in the buffer where V0 and V1 say. -/
def Obligations.ScannedRangeIsFramed : Prop :=
  ∀ s t r, readable s → exec .rsyncScan s = .next t → t.response = some r → r.status = .ok →
    bothMarkers r.out ∧ r.out = (s.inA.drop r.v0.toNat).take r.v1.toNat ∧ r.out.length = r.v1.toNat ∧
      r.v0.toNat + r.v1.toNat ≤ s.inA.length

/-- R68, R73, R65: a frame after noise that holds no leading marker, before anything else, is recovered and decoded, where
no trailing marker stands inside it before its own and the scan is the shortest one. -/
def Obligations.FrameAfterNoiseIsRecovered : Prop :=
  ∀ (ct : Half) (body noise tail : Bytes) (s u : State), body.length ≤ 65531 → s.params.scanMode = .shortest →
    u.params = s.params → (∀ i, ¬ leadAt noise i) →
    (∀ j, 2 ≤ j → j < body.length + 10 → ¬ trailAt (frameEncode s.params.key ct body) j) →
    s.inA = noise ++ frameEncode s.params.key ct body ++ tail → readable s →
    ∃ r, exec .rsyncScan s = .next (answerOnly s r) ∧ r.status = .ok ∧ r.out = frameEncode s.params.key ct body ∧
      (u.inA = r.out → ∃ q, exec .frameDec u = .next (answerOnly u q) ∧ q.status = .ok ∧ q.v0 = ct.setWidth 32 ∧
        q.out = body ∧ q.flags = 0x03)

/-- R69, R70: the host's resynchronizing read, for every count, every draw of the serial line and every `P_MAX_BUF`: the
first read as it is where RSYNC_CHECK calls it framed, else the OUT of RSYNC_SCAN of both reads, the second of at most 512
bytes. The spec does not say what the procedure does with reads longer than `P_MAX_BUF`. That they count as not
framed and that the result is then [] is the model's inference, DEDUCED (log 10). -/
def Obligations.ResyncFollowsProcedure : Prop :=
  ∀ (n d1 d2 : Nat) (line : Bytes) (draws : List Nat) (s : State), s.inReset = false →
    let s1 := line.take (min d1 n)
    let both := s1 ++ (line.drop (min d1 n)).take (min d2 512)
    ∃ out l t, resync n { line := line, draws := d1 :: d2 :: draws } s = some (out, l, t) ∧
      t.crcAcc = s.crcAcc ∧ t.ksIdx = s.ksIdx ∧ t.params = s.params ∧ t.inbox = s.inbox ∧
      (bothMarkers s1 → s1.length ≤ s.params.maxBuf.toNat → out = s1 ∧ l.draws = d2 :: draws ∧ l.line = line.drop (min d1 n)) ∧
      (¬ (bothMarkers s1 ∧ s1.length ≤ s.params.maxBuf.toNat) →
        l.draws = draws ∧ l.line = (line.drop (min d1 n)).drop (min d2 512) ∧
        ∃ r, exec .rsyncScan { s with inA := both } = .next (answerOnly s r) ∧ out = r.out ∧
          (s.params.maxBuf.toNat < both.length → out = []))

/-! ## Keypress command builder -/

/-- R74, R76. -/
def Obligations.KeycodeRequest : Prop :=
  byteEncoding 0x40 .keycode ∧
  (∀ tok s, tok.toNat ≤ 18 →
    exec (.keycode tok) s = .next (answerOnly s { status := .ok, v0 := BitVec.ofNat 32 (32 + tok.toNat) })) ∧
  (∀ tok s, 18 < tok.toNat → exec (.keycode tok) s = .next (answerOnly s { status := .errKey }))

/-- R75, R77, R39: the keypress frame of a token, and that frames of different tokens differ only at offsets 8, 10 and 11. -/
def Obligations.KeyFrameRequest : Prop :=
  byteEncoding 0x41 .keyFrame ∧
  (∀ tok s, 18 < tok.toNat → exec (.keyFrame tok) s = .next (answerOnly s { status := .errKey })) ∧
  (∀ tok s, tok.toNat ≤ 18 → ∃ out : Bytes,
    exec (.keyFrame tok) s =
      .next (answerOnly s { status := .ok, v0 := BitVec.ofNat 32 (32 + tok.toNat), out := out }) ∧
    out.length = 14 ∧
    (let inner := le16 s.params.cmdKeypress ++ [0x02, 0x00, BitVec.ofNat 8 (32 + tok.toNat), 0x00]
     out = [0xAB, 0xCD, 0x06, 0x00] ++ xork s.params.key (inner ++ le16 (crc16 inner)) 0 ++ [0xDC, 0xBA])) ∧
  (∀ tok tok' s r r', tok.toNat ≤ 18 → tok'.toNat ≤ 18 → exec (.keyFrame tok) s = .next (answerOnly s r) →
    exec (.keyFrame tok') s = .next (answerOnly s r') →
    ∀ j, j ≠ 8 → j ≠ 10 → j ≠ 11 → r.out[j]? = r'.out[j]?) ∧
  (∀ s, s.params.key = defaultKey → s.params.cmdKeypress = 0x0801 →
    exec (.keyFrame 11) s = .next (answerOnly s
      { status := .ok
        v0 := 43
        out := [0xAB, 0xCD, 0x06, 0x00, 0x17, 0x64, 0x16, 0xE6, 0x05, 0x91, 0xF4, 0x30, 0xDC, 0xBA] }))

/-- R78: KEY_FRAME_CODE takes the keycodes 32 to 50 and builds the frame KEY_FRAME builds for the token. -/
def Obligations.KeyFrameCodeRequest : Prop :=
  halfEncoding 0x42 .keyFrameCode ∧
  (∀ code s, (code.toNat < 32 ∨ 50 < code.toNat) →
    exec (.keyFrameCode code) s = .next (answerOnly s { status := .errKey })) ∧
  (∀ code s, 32 ≤ code.toNat → code.toNat ≤ 50 →
    exec (.keyFrameCode code) s = .next (answerOnly s
      { status := .ok, v0 := code.setWidth 32, out := frameEncode s.params.key s.params.cmdKeypress (le16 code) })) ∧
  (∀ tok s, tok.toNat ≤ 18 →
    exec (.keyFrameCode (BitVec.ofNat 16 (32 + tok.toNat))) s = exec (.keyFrame tok) s)

/-- R39, R65, R77: FRAME_DEC of a token's keypress frame gives the keypress command type, the 2-byte body with the keycode low
byte first, and both flags, under every key and command type. -/
def Obligations.KeypressFrameDecodes : Prop :=
  ∀ tok s u r, tok.toNat ≤ 18 → exec (.keyFrame tok) s = .next (answerOnly s r) → u.params = s.params → u.inA = r.out →
    14 ≤ u.params.maxBuf.toNat →
    ∃ q, exec .frameDec u = .next (answerOnly u q) ∧ q.status = .ok ∧ q.v0 = s.params.cmdKeypress.setWidth 32 ∧
      q.v3 = 2 ∧ q.flags = 0x03 ∧ q.out = [BitVec.ofNat 8 (32 + tok.toNat), 0x00]

/-- R79, R97 to R99: PRESS sends one keypress frame per token, strictly in order, receives 0 bytes and waits the settle
interval after each, the last one included, and leaves the registers alone. That the receive of 0 bytes is a plain one and
not RESYNC(0) is the model's choice (log 16). -/
def Obligations.PressKeepsOrderAndSettle : Prop :=
  ∀ (ts : List KeyToken) (s : State), s.inReset = false →
    ∃ acts u, press ts s = some (acts, u) ∧
      acts = ts.flatMap (fun t =>
        [.serialWrite (frameEncode s.params.key s.params.cmdKeypress (le16 (BitVec.ofNat 16 (32 + (Asm.tok t).toNat)))),
          .receive 0, .wait 400]) ∧
      settleKept 0 acts = true ∧
      u.crcAcc = s.crcAcc ∧ u.ksIdx = s.ksIdx ∧ u.params = s.params ∧ u.inbox = s.inbox

/-- R44: the spec's own lines and the pseudo-instructions assemble to the words the spec gives, and the word of a line is the
encoding of its instruction. -/
def Obligations.AssemblerMatchesSpec : Prop :=
  Asm.assemble "FRAME_ENC 0x1234, A=01" = some [.request 0x00123420 [0x01]] ∧
  Asm.assemble "KEY_FRAME up" = some [.request 0x00000B41 []] ∧
  Asm.assemble "CRC_STREAM A=31 32" = some [.request 0x00000003 [], .request 0x00000004 [0x31, 0x32]] ∧
  Asm.assemble "KEY_SEQ exit up" = some [.request 0x00000D41 [], .request 0x00000B41 []] ∧
  ∀ i : Instr, Asm.lineWord i.opcode i.imm = encode i

/-! ## Rules over all instructions -/

/-- R13, R14, R80, R81: every instruction in every state answers with a response and changes nothing but the response, the
buffer it consumes, and CRC_ACC (CRC_INIT and CRC_FEED only) or KS_IDX (KS_INIT and KS_XOR only). -/
def Obligations.EveryInstructionAnswersAndFrame : Prop :=
  ∀ (i : Instr) (s : State), ∃ (c : Half) (k : BitVec 4) (r : Response),
    exec i s = .next (answer s c k r) ∧
    (i ≠ .crcInit → i ≠ .crcFeed → c = s.crcAcc) ∧ (i ≠ .ksInit → i ≠ .ksXor → k = s.ksIdx)

/-- R13, R14, R96: CRC_ACC is read by CRC_FEED and CRC_READ only, KS_IDX by KS_XOR only: the response of any other operation
does not depend on the register, and the register's old value stays or is overwritten. -/
def Obligations.RegistersAreReadByTheirOperationsOnly : Prop :=
  (∀ (i : Instr) (s t : State) (c : Half), i ≠ .crcFeed → i ≠ .crcRead → exec i s = .next t →
    exec i { s with crcAcc := c } = .next { t with crcAcc := if i = .crcInit then 0x0000 else c }) ∧
  (∀ (i : Instr) (s t : State) (k : BitVec 4), i ≠ .ksXor → exec i s = .next t →
    exec i { s with ksIdx := k } = .next { t with ksIdx := if i = .ksInit then 0 else k })

/-- R81, R90: a request that ends in an error writes no register, and its response has every field 0 but the reason of a
FRAME_ERR in V0. -/
def Obligations.ErrorLeavesStateUntouched : Prop :=
  ∀ s w a rest t r, requested s w a rest → step s = .next t → t.response = some r → r.status.isError = true →
    t = answerOnly { s with inbox := rest } r ∧ r.flags = 0 ∧ r.v1 = 0 ∧ r.v2 = 0 ∧ r.v3 = 0 ∧ r.out = [] ∧
      (r.status ≠ .frameErr → r.v0 = 0) ∧ (r.status = .frameErr → r.v0 = 1 ∨ r.v0 = 2)

/-- R62, R68, R82, R84, R85: exactly when each error and NOT_FOUND is returned by an operation. (ERR_OP is returned by none:
it answers the words that spell no operation, IllegalWordEndsErrOp.) -/
def Obligations.StatusCauses : Prop :=
  ∀ i s t r, exec i s = .next t → t.response = some r →
    r.status ≠ .errOp ∧
    (r.status = .errLen ↔
      (readsBuffer i = true ∧ ¬ readable s) ∨ (∃ ct, i = .frameEnc ct) ∧ 65531 < s.inA.length) ∧
    (r.status = .errKey ↔ i.wf = false) ∧
    (r.status = .frameErr ↔ i = .frameDec ∧ readable s ∧ failsFrameCheck s.inA) ∧
    (r.status = .notFound ↔ i = .rsyncScan ∧ readable s ∧ ¬ hasMarkedRange s.inA)

/-- R41: the status codes, and that no response carries any other code. -/
def Obligations.StatusCodes : Prop :=
  Status.code .ok = 0x00 ∧ Status.code .notFound = 0x01 ∧ Status.code .frameErr = 0x10 ∧ Status.code .errKey = 0x11 ∧
  Status.code .errLen = 0x12 ∧ Status.code .errOp = 0x13 ∧
  ∀ s t r, s.inbox ≠ [] → step s = .next t → t.response = some r →
    r.status.code ∈ [0x00, 0x01, 0x10, 0x11, 0x12, 0x13]

/-- R32, R85, R88: an operation that reads A ends with ERR_LEN before anything else where A is longer than `P_MAX_BUF`. -/
def Obligations.LongBufferIsErrLenFirst : Prop := ∀ i, readsBuffer i = true → longBufferErrLen i

/-- R34: the buffer of an operation that does not use it does not matter, its length included. -/
def Obligations.UnusedBufferIsIgnored : Prop :=
  ∀ i s a, readsBuffer i = false → exec i { s with inA := a } = exec i s

/-- R16, R35: only FRAME_DEC (bits 0 and 1) and RSYNC_CHECK (bit 0) set flag bits. -/
def Obligations.FlagsOfTwoOperationsOnly : Prop :=
  ∀ i s t r, exec i s = .next t → t.response = some r →
    (i ≠ .frameDec → i ≠ .rsyncCheck → r.flags = 0) ∧ (i = .frameDec → r.flags.toNat < 4) ∧
      (i = .rsyncCheck → r.flags.toNat < 2)

/-- R16, R22: the next request does not see the response of an earlier one. -/
def Obligations.EarlierResponseIsNotSeen : Prop :=
  ∀ s w a rest (q : Option Response), s.inbox = .request w a :: rest → step { s with response := q } = step s

/-- R29: a request sees nothing of any later request: what the host does afterwards changes nothing in the step but what is
left to do. -/
def Obligations.LaterRequestsAreNotSeen : Prop :=
  ∀ s e rest rest', s.inbox = e :: rest →
    (∀ t, step s = .next t → step { s with inbox := e :: rest' } = .next { t with inbox := rest' } ∧ t.inbox = rest) ∧
    (∀ q, step s = .refused q → step { s with inbox := e :: rest' } = .refused q)

/-- R17, R31: nothing at run time changes the key, the command type, the buffer limit or the scan mode. -/
def Obligations.ParametersNeverChange : Prop :=
  ∀ k s t, core.run k s = .next t → t.params = s.params

/-- The invariant of Safety.lean holds after reset. Its clause about a block held in reset is the model's choice (log 7). -/
def Obligations.InvariantHoldsAtReset : Prop := StateInv State.reset

/-- R22, R23, R35, R81: every step from every state that meets the invariant keeps it. Its clause about a block that is HELD
in reset is the model's choice (log 7): the spec states the reset values only for after reset. -/
def Obligations.StepKeepsInvariant : Prop := ∀ s t, StateInv s → step s = .next t → StateInv t

/-- R80, R95: that the host issues no request during reset is an invariant under which every step answers: the step from a
state that meets it is neither refused nor a fault, and leaves a state that meets it. The step without an event is the
model's inference (log 6), the reset events are its own (log 7). -/
def Obligations.ObedienceIsKeptAndAnswered : Prop :=
  ∀ s, hostObeysReset s.inReset s.inbox = true → ∃ t, step s = .next t ∧ hostObeysReset t.inReset t.inbox = true

/-- R80, R95: a host that issues no request during reset is never refused and never faulted, however long it runs. The step
without an event is the model's inference (log 6), the reset events are its own (log 7). -/
def Obligations.ObedientHostIsAlwaysAnswered : Prop :=
  ∀ k s, hostObeysReset s.inReset s.inbox = true → ∃ t, core.run k s = .next t
end

