-- ==== Sys2Proof/Laws/Bytes.lean ====
section
/-! SUPPORT. Small lemmas of the byte-sequence operations, the cipher and the CRC. -/

namespace Sys2Proof.Machine

/-! ## Slices and little-endian fields -/

theorem length_slice (s : Bytes) (a b : Nat) : (slice s a b).length = min b s.length - a := by
  simp [slice]

theorem slice_all (s : Bytes) (a : Nat) : slice s a s.length = s.drop a := by
  simp [slice]

/-- A slice inside the first part of a concatenation. -/
theorem slice_append_left {s t : Bytes} {a b : Nat} (h : b ≤ s.length) : slice (s ++ t) a b = slice s a b := by
  simp [slice, List.take_append_of_le_length h]

/-- The middle of three parts. -/
theorem slice_middle (s m t : Bytes) : slice (s ++ m ++ t) s.length (s.length + m.length) = m := by
  rw [slice, List.take_append_of_le_length (by simp), List.take_of_length_le (by simp), List.drop_left]

@[simp] theorem length_le16 (v : Half) : (le16 v).length = 2 := rfl

/-- `rd16` reads the two bytes of `le16` back. -/
theorem rd16_le16 (v : Half) (rest : Bytes) : rd16 (le16 v ++ rest) 0 = v := by
  apply BitVec.eq_of_getLsbD_eq
  intro i hi
  have : i < 8 ∨ (8 ≤ i ∧ i - 8 < 8) := by omega
  rcases this with h | ⟨h, h'⟩
  · simp [rd16, le16, h, hi]
  · simp [rd16, le16, hi, h', Nat.not_lt.mpr h, show 8 + (i - 8) = i by omega]

/-- A little-endian field after the first part of a concatenation. -/
theorem rd16_append (s t : Bytes) (i : Nat) : rd16 (s ++ t) (s.length + i) = rd16 t i := by
  simp [rd16, List.getElem?_append_right, Nat.add_assoc]

/-- The number a little-endian field holds. -/
theorem rd16_toNat (s : Bytes) (i : Nat) :
    (rd16 s i).toNat = (s.getD i 0).toNat + 256 * (s.getD (i + 1) 0).toNat := by
  have h0 := (s.getD i 0).isLt
  have h1 := (s.getD (i + 1) 0).isLt
  rw [rd16, BitVec.toNat_or, BitVec.toNat_shiftLeft, BitVec.toNat_setWidth, BitVec.toNat_setWidth,
    Nat.mod_eq_of_lt (by omega), Nat.mod_eq_of_lt (a := (s.getD (i + 1) 0).toNat) (by omega), Nat.shiftLeft_eq,
    Nat.mod_eq_of_lt (by omega), Nat.or_comm, Nat.mul_comm, ← Nat.two_pow_add_eq_or_of_lt (by omega)]
  omega

/-! ## The cipher -/

@[simp] theorem length_xork (key : Vector Byte 16) (s : Bytes) (k0 : Nat) : (xork key s k0).length = s.length := by
  simp [xork]

@[simp] theorem xork_nil (key : Vector Byte 16) (k0 : Nat) : xork key [] k0 = [] := rfl

/-- Byte j of the ciphered sequence (41_cipher.md R54). -/
theorem getElem?_xork (key : Vector Byte 16) (s : Bytes) (k0 j : Nat) :
    (xork key s k0)[j]? = s[j]?.map (· ^^^ keyByte key (k0 + j)) := by
  simp [xork]

/-- Only the key index modulo 16 counts. -/
theorem keyByte_mod (key : Vector Byte 16) (j : Nat) : keyByte key (j % 16) = keyByte key j := by
  simp [keyByte]

theorem xork_mod (key : Vector Byte 16) (s : Bytes) (k0 : Nat) : xork key s (k0 % 16) = xork key s k0 := by
  apply List.ext_getElem?
  intro j
  simp [getElem?_xork, keyByte]

/-! ## The CRC -/

@[simp] theorem crc16From_nil (c : Half) : crc16From [] c = c := by simp [crc16From, crcXorOut]

@[simp] theorem crc16From_cons (b : Byte) (s : Bytes) (c : Half) :
    crc16From (b :: s) c = crc16From s (crcStep c b) := rfl

/-! ## Frames -/

@[simp] theorem length_markLead : markLead.length = 2 := rfl
@[simp] theorem length_markTrail : markTrail.length = 2 := rfl

/-- `|inner| = n + 4` (00_scope.md R8). -/
theorem length_innerBlock (t : Half) (b : Bytes) : (innerBlock t b).length = b.length + 4 := by
  simp only [innerBlock, List.length_append, length_le16]
  omega

/-- A frame is 8 bytes longer than its inner block. -/
theorem length_frameAround (key : Vector Byte 16) (inner : Bytes) :
    (frameAround key inner).length = inner.length + 8 := by
  simp only [frameAround, List.length_append, length_markLead, length_markTrail, length_le16, length_xork]
  omega

end Sys2Proof.Machine
end

