-- ==== Sys2Proof/Laws/State.lean ====
section
/-! SUPPORT. One lemma per field per update of the state (Machine/Ops.lean). -/

namespace Sys2Proof.Machine

section
variable (s : State) (r : Response) (a : Bytes)

@[simp] theorem respond_crcAcc : (respond r s).crcAcc = s.crcAcc := rfl
@[simp] theorem respond_ksIdx : (respond r s).ksIdx = s.ksIdx := rfl
@[simp] theorem respond_params : (respond r s).params = s.params := rfl
@[simp] theorem respond_inA : (respond r s).inA = [] := rfl
@[simp] theorem respond_response : (respond r s).response = some r := rfl
@[simp] theorem respond_inReset : (respond r s).inReset = s.inReset := rfl
@[simp] theorem respond_inbox : (respond r s).inbox = s.inbox := rfl

@[simp] theorem present_crcAcc : (present a s).crcAcc = s.crcAcc := rfl
@[simp] theorem present_ksIdx : (present a s).ksIdx = s.ksIdx := rfl
@[simp] theorem present_params : (present a s).params = s.params := rfl
@[simp] theorem present_inA : (present a s).inA = a := rfl
@[simp] theorem present_response : (present a s).response = s.response := rfl
@[simp] theorem present_inReset : (present a s).inReset = s.inReset := rfl
@[simp] theorem present_inbox : (present a s).inbox = s.inbox := rfl

@[simp] theorem enterReset_crcAcc : (enterReset s).crcAcc = 0 := rfl
@[simp] theorem enterReset_ksIdx : (enterReset s).ksIdx = 0 := rfl
@[simp] theorem enterReset_params : (enterReset s).params = s.params := rfl
@[simp] theorem enterReset_inA : (enterReset s).inA = [] := rfl
@[simp] theorem enterReset_response : (enterReset s).response = none := rfl
@[simp] theorem enterReset_inReset : (enterReset s).inReset = true := rfl
@[simp] theorem enterReset_inbox : (enterReset s).inbox = s.inbox := rfl

@[simp] theorem leaveReset_crcAcc : (leaveReset s).crcAcc = s.crcAcc := rfl
@[simp] theorem leaveReset_ksIdx : (leaveReset s).ksIdx = s.ksIdx := rfl
@[simp] theorem leaveReset_params : (leaveReset s).params = s.params := rfl
@[simp] theorem leaveReset_inA : (leaveReset s).inA = s.inA := rfl
@[simp] theorem leaveReset_response : (leaveReset s).response = s.response := rfl
@[simp] theorem leaveReset_inReset : (leaveReset s).inReset = false := rfl
@[simp] theorem leaveReset_inbox : (leaveReset s).inbox = s.inbox := rfl

/-- A response drops the buffer, so a buffer presented before it leaves no trace. -/
@[simp] theorem respond_present : respond r (present a s) = respond r s := rfl

end

end Sys2Proof.Machine
end

