-- ==== Sys2Proof/Laws/Ops.lean ====
section
/-! SUPPORT. What the shared operations do, said once (Machine/Ops.lean). -/

namespace Sys2Proof.Machine

/-- A buffer within `P_MAX_BUF` is read. -/
theorem withBuffer_of_le {s : State} {k : Bytes → Result} (h : s.inA.length ≤ s.params.maxBuf.toNat) :
    withBuffer s k = k s.inA := by
  simp [withBuffer, Nat.not_lt.mpr h]

/-- A longer buffer ends the request with ERR_LEN, whatever the operation would do with it. -/
theorem withBuffer_of_lt {s : State} {k : Bytes → Result} (h : s.params.maxBuf.toNat < s.inA.length) :
    withBuffer s k = .next (respond { status := .errLen } s) := by
  simp [withBuffer, h, raise, complete]

/-- An operation that reads A does one of two things. -/
theorem withBuffer_cases {s : State} {k : Bytes → Result} {t : State} (h : withBuffer s k = .next t) :
    (s.params.maxBuf.toNat < s.inA.length ∧ t = respond { status := .errLen } s) ∨
      (s.inA.length ≤ s.params.maxBuf.toNat ∧ k s.inA = .next t) := by
  rcases Nat.lt_or_ge s.params.maxBuf.toNat s.inA.length with hlt | hge
  · rw [withBuffer_of_lt hlt] at h
    exact .inl ⟨hlt, (Host.Outcome.next.inj h).symm⟩
  · rw [withBuffer_of_le hge] at h
    exact .inr ⟨hge, h⟩

/-- `raise` is a next state that writes the response port alone. -/
theorem raise_eq (st : Status) (info : Word) (s : State) :
    raise st info s = .next (respond { status := st, v0 := info } s) := rfl

theorem complete_eq (r : Response) (s : State) : complete r s = .next (respond r s) := rfl

end Sys2Proof.Machine
end

