-- ==== Sys2Proof/Laws/Exec.lean ====
section
/-! SUPPORT. One lemma per meaning: what it answers when its checks pass. A buffer that is too long is
`withBuffer_of_lt`. -/

namespace Sys2Proof.Machine

variable {s : State}

theorem execCrc16_of_le (h : s.inA.length ≤ s.params.maxBuf.toNat) :
    execCrc16 s = .next (respond { status := .ok, v0 := zext32 (crc16 s.inA) } s) := withBuffer_of_le h

theorem execCrcFeed_of_le (h : s.inA.length ≤ s.params.maxBuf.toNat) :
    execCrcFeed s = .next (respond { status := .ok, v0 := zext32 (crc16From s.inA s.crcAcc) }
      { s with crcAcc := crc16From s.inA s.crcAcc }) := withBuffer_of_le h

theorem execXor_of_le (h : s.inA.length ≤ s.params.maxBuf.toNat) :
    execXor s = .next (respond { status := .ok, out := xork s.params.key s.inA 0 } s) := withBuffer_of_le h

theorem execKsXor_of_le (h : s.inA.length ≤ s.params.maxBuf.toNat) :
    execKsXor s = .next (respond { status := .ok, out := xork s.params.key s.inA s.ksIdx.toNat }
      { s with ksIdx := ksAdvance s.ksIdx s.inA.length }) := withBuffer_of_le h

theorem execFrameEnc_of_le (t : Half) (h : s.inA.length ≤ s.params.maxBuf.toNat) (hb : s.inA.length ≤ maxBody) :
    execFrameEnc t s = .next (respond
      { status := .ok
        v0 := zext32 (crc16 (innerBlock t s.inA))
        v1 := len32 (innerBlock t s.inA).length
        out := frameEncode s.params.key t s.inA } s) := by
  simp [execFrameEnc, withBuffer_of_le h, Nat.not_lt.mpr hb, complete]

theorem execFrameDec_of_error (h : s.inA.length ≤ s.params.maxBuf.toNat) {e : FrameReason}
    (hc : frameCheck s.inA = .error e) :
    execFrameDec s = .next (respond { status := .frameErr, v0 := e.code } s) := by
  simp [execFrameDec, withBuffer_of_le h, hc, raise, complete]

theorem execFrameDec_of_ok (h : s.inA.length ≤ s.params.maxBuf.toNat) {len : Nat} (hc : frameCheck s.inA = .ok len) :
    execFrameDec s = .next (respond (decodedResponse (framePlain s.params.key s.inA) len) s) := by
  simp [execFrameDec, withBuffer_of_le h, hc, complete]

theorem execRsyncCheck_of_le (h : s.inA.length ≤ s.params.maxBuf.toNat) :
    execRsyncCheck s = .next (respond { status := .ok, flags := framedFlags (framed s.inA) } s) := withBuffer_of_le h

theorem execRsyncScan_of_found (h : s.inA.length ≤ s.params.maxBuf.toNat) {i n : Nat} {r : Bytes}
    (hc : scan s.params.scanMode s.inA = .found i n r) :
    execRsyncScan s = .next (respond { status := .ok, v0 := len32 i, v1 := len32 n, out := r } s) := by
  simp [execRsyncScan, withBuffer_of_le h, hc, complete]

theorem execRsyncScan_of_notFound (h : s.inA.length ≤ s.params.maxBuf.toNat)
    (hc : scan s.params.scanMode s.inA = .notFound) :
    execRsyncScan s = .next (respond { status := .notFound, out := s.inA } s) := by
  simp [execRsyncScan, withBuffer_of_le h, hc, complete]

/-- Token numbers 0 to 18 have the keycode 32 + t, the others have none (44_keypress.md R74). -/
theorem keycodeOf_of_le {tok : Byte} (h : tok.toNat ≤ 18) : keycodeOf tok = some (BitVec.ofNat 16 (32 + tok.toNat)) := by
  unfold keycodeOf
  generalize tok.toNat = n at h
  interval_cases n <;> rfl

theorem keycodeOf_of_lt {tok : Byte} (h : 18 < tok.toNat) : keycodeOf tok = none := by
  simpa [keycodeOf, keycodeTable] using Nat.succ_le_of_lt h

end Sys2Proof.Machine
end

