-- ==== Sys2Proof/Laws/PerInstr.lean ====
section
/-! SUPPORT. Statements made per instruction. The family TableRow: the encoding of an instruction matches its row of
spec/opcode_table.json. -/

namespace Sys2Proof.Laws.TableRow

/-- The row's "mask". -/
def mask : Instr → Word
  | .crc16 | .crcInit | .crcFeed | .crcRead | .xor | .ksInit | .ksXor | .frameDec | .rsyncCheck | .rsyncScan => 0xFFFFFFFF
  | .crcTbl _ | .keycode _ | .keyFrame _ => 0xFFFF00FF
  | .frameEnc _ | .keyFrameCode _ => 0xFF0000FF

/-- The row's "match". -/
def pattern : Instr → Word
  | .crc16 => 0x00000001
  | .crcTbl _ => 0x00000002
  | .crcInit => 0x00000003
  | .crcFeed => 0x00000004
  | .crcRead => 0x00000005
  | .xor => 0x00000010
  | .ksInit => 0x00000011
  | .ksXor => 0x00000012
  | .frameEnc _ => 0x00000020
  | .frameDec => 0x00000021
  | .rsyncCheck => 0x00000030
  | .rsyncScan => 0x00000031
  | .keycode _ => 0x00000040
  | .keyFrame _ => 0x00000041
  | .keyFrameCode _ => 0x00000042

def Statement (i : Instr) : Prop := encode i &&& mask i = pattern i

/-- The word of a 16-bit immediate under the mask that keeps `OP` and `RSV`. -/
theorem packWord_and_halfMask (v : Half) (op : Byte) : packWord v op &&& 0xFF0000FF = op.setWidth 32 := by
  apply BitVec.eq_of_toNat_eq
  have hv := v.isLt
  have ho := op.isLt
  have hw : (packWord v op).toNat = v.toNat * 256 + op.toNat := by
    simp only [packWord, BitVec.toNat_append]
    rw [← Nat.shiftLeft_add_eq_or_of_lt ho, Nat.shiftLeft_eq]
    simp
  rw [BitVec.toNat_and, hw, BitVec.toNat_setWidth, Nat.mod_eq_of_lt (by omega)]
  apply Nat.eq_of_testBit_eq
  intro i
  rw [Nat.testBit_and, show v.toNat * 256 + op.toNat = 2 ^ 8 * v.toNat + op.toNat by omega,
    Nat.testBit_two_pow_mul_add _ ho]
  by_cases h8 : i < 8
  · have : Nat.testBit 4278190335 i = true := by interval_cases i <;> decide
    simp [h8, this]
  · have hz : op.toNat.testBit i = false :=
      Nat.testBit_lt_two_pow (Nat.lt_of_lt_of_le ho (Nat.pow_le_pow_right (by decide) (Nat.not_lt.mp h8)))
    simp only [h8, if_false, hz, Bool.and_eq_false_iff]
    by_cases h24 : i < 24
    · right
      interval_cases i <;> first | omega | decide
    · left
      exact Nat.testBit_lt_two_pow (Nat.lt_of_lt_of_le hv (Nat.pow_le_pow_right (by decide) (by omega)))

theorem crc16 : Statement .crc16 := by unfold Statement; decide
theorem crcTbl (index : Byte) : Statement (.crcTbl index) := by unfold Statement; revert index; decide
theorem crcInit : Statement .crcInit := by unfold Statement; decide
theorem crcFeed : Statement .crcFeed := by unfold Statement; decide
theorem crcRead : Statement .crcRead := by unfold Statement; decide
theorem xor : Statement .xor := by unfold Statement; decide
theorem ksInit : Statement .ksInit := by unfold Statement; decide
theorem ksXor : Statement .ksXor := by unfold Statement; decide
theorem frameEnc (commandType : Half) : Statement (.frameEnc commandType) := packWord_and_halfMask commandType 0x20
theorem frameDec : Statement .frameDec := by unfold Statement; decide
theorem rsyncCheck : Statement .rsyncCheck := by unfold Statement; decide
theorem rsyncScan : Statement .rsyncScan := by unfold Statement; decide
theorem keycode (tok : Byte) : Statement (.keycode tok) := by unfold Statement; revert tok; decide
theorem keyFrame (tok : Byte) : Statement (.keyFrame tok) := by unfold Statement; revert tok; decide
theorem keyFrameCode (code : Half) : Statement (.keyFrameCode code) := packWord_and_halfMask code 0x42

end Sys2Proof.Laws.TableRow
end

