-- ==== Sys2Proof/Laws/Step.lean ====
section
/-! SUPPORT. What a step does, by the host's next event. -/

namespace Sys2Proof.Machine

variable {s : State} {rest : List HostEvent}

theorem step_idle (h : s.inbox = []) : step s = .next s := by simp [step, h, idle]

theorem step_request {w : Word} {a : Bytes} (h : s.inbox = .request w a :: rest) (hr : s.inReset = false) :
    step s = runRequest w a { s with inbox := rest } := by
  simp [step, h, handleEvent, hr]

theorem step_request_inReset {w : Word} {a : Bytes} (h : s.inbox = .request w a :: rest) (hr : s.inReset = true) :
    step s = .refused .requestDuringReset := by
  simp [step, h, handleEvent, hr]

theorem step_resetAssert (h : s.inbox = .resetAssert :: rest) :
    step s = .next (enterReset { s with inbox := rest }) := by
  simp [step, h, handleEvent]

theorem step_resetRelease (h : s.inbox = .resetRelease :: rest) :
    step s = .next (leaveReset { s with inbox := rest }) := by
  simp [step, h, handleEvent]

theorem runRequest_ok {w : Word} {a : Bytes} {i : Instr} (h : decode w = .ok i) :
    runRequest w a s = exec i (present a s) := by simp [runRequest, h]

theorem runRequest_error {w : Word} {a : Bytes} {e : IllegalWord} (h : decode w = .error e) :
    runRequest w a s = .next (respond { status := .errOp } s) := by
  simp [runRequest, h, raise, complete]

/-- One step of a run. -/
theorem run_succ {t : State} (k : Nat) (h : step s = .next t) : core.run (k + 1) s = core.run k t := by
  simp only [Host.Core.run, core, h]

/-- One request of a run: its operation on its buffer. -/
theorem run_request {t : State} {w : Word} {a : Bytes} {i : Instr} (k : Nat) (h : s.inbox = .request w a :: rest)
    (hr : s.inReset = false) (hd : decode w = .ok i) (he : exec i { s with inbox := rest, inA := a } = .next t) :
    core.run (k + 1) s = core.run k t := by
  apply run_succ
  rw [step_request h hr, runRequest_ok hd]
  exact he

end Sys2Proof.Machine
end

