-- ==== Sys2Proof/Tests/Slice0.lean ====
section
/-! SUPPORT. The session's own tests: each one decoding, one step, or one witness. Expected values are the spec's: the opcode
table, the printed CRC table (10_state.md R18) and the vectors of 95_test_vectors.md, named in the comments. -/

open Sys2Proof Sys2Proof.Machine Sys2Proof.Safety Sys2Proof.Stmt

namespace Sys2Proof.Tests

/-! ## Well-formedness -/

/-- Token 18 is the last token (R40), keycodes are 32 to 50 (R74). -/
theorem test_wf_accepts_key_operands :
    (Instr.keycode 18).wf = true ∧ (Instr.keyFrame 0).wf = true ∧ (Instr.keyFrameCode 32).wf = true ∧
      (Instr.keyFrameCode 50).wf = true ∧ (Instr.frameEnc 0xFFFF).wf = true := by decide

theorem test_wf_refuses_keycode_token : (Instr.keycode 19).wf = false := by decide

theorem test_wf_refuses_keyFrame_token : (Instr.keyFrame 255).wf = false := by decide

theorem test_wf_refuses_low_code : (Instr.keyFrameCode 31).wf = false := by decide

theorem test_wf_refuses_high_code : (Instr.keyFrameCode 51).wf = false ∧ (Instr.keyFrameCode 0x0120).wf = false := by decide

/-! ## Decoding: RSV, IMM, OP written out bit by bit from R33 and R42 -/

theorem test_decode_crc16 : decode 0b00000000_0000000000000000_00000001 = .ok .crc16 := by decide

theorem test_decode_crcTbl : decode 0b00000000_0000000010100101_00000010 = .ok (.crcTbl 0xA5) := by decide

theorem test_decode_crcInit : decode 0b00000000_0000000000000000_00000011 = .ok .crcInit := by decide

theorem test_decode_crcFeed : decode 0b00000000_0000000000000000_00000100 = .ok .crcFeed := by decide

theorem test_decode_crcRead : decode 0b00000000_0000000000000000_00000101 = .ok .crcRead := by decide

theorem test_decode_xor : decode 0b00000000_0000000000000000_00010000 = .ok .xor := by decide

theorem test_decode_ksInit : decode 0b00000000_0000000000000000_00010001 = .ok .ksInit := by decide

theorem test_decode_ksXor : decode 0b00000000_0000000000000000_00010010 = .ok .ksXor := by decide

theorem test_decode_frameEnc : decode 0b00000000_0001001000110100_00100000 = .ok (.frameEnc 0x1234) := by decide

theorem test_decode_frameDec : decode 0b00000000_0000000000000000_00100001 = .ok .frameDec := by decide

theorem test_decode_rsyncCheck : decode 0b00000000_0000000000000000_00110000 = .ok .rsyncCheck := by decide

theorem test_decode_rsyncScan : decode 0b00000000_0000000000000000_00110001 = .ok .rsyncScan := by decide

theorem test_decode_keycode : decode 0b00000000_0000000000001010_01000000 = .ok (.keycode 10) := by decide

theorem test_decode_keyFrame : decode 0b00000000_0000000000001011_01000001 = .ok (.keyFrame 11) := by decide

theorem test_decode_keyFrameCode : decode 0b00000000_0000000100100000_01000010 = .ok (.keyFrameCode 0x0120) := by decide

/-- R43's ranges of unassigned `OP` values, at both ends of each (vectors E1 to E3). -/
theorem test_decode_refuses_unassigned :
    [0x00#32, 0x06#32, 0x0F#32, 0x13#32, 0x1F#32, 0x22#32, 0x2F#32, 0x32#32, 0x3F#32, 0x43#32, 0xFF#32].all
      (fun w => decide (decode w = .error .unassignedOp)) = true := by decide

/-- Vectors E4, CS7, FC8: a reserved bit set. -/
theorem test_decode_refuses_reserved :
    [0x80000001#32, 0x01000004#32, 0x01123420#32].all (fun w => decide (decode w = .error .reservedBits)) = true := by decide

/-- Vectors CR12, CT9, X14, FD17, RS13, K4: a must-be-zero immediate bit set. -/
theorem test_decode_refuses_immediate :
    [0x00000101#32, 0x00010002#32, 0x00000111#32, 0x00000121#32, 0x00000130#32, 0x00000131#32, 0x00010040#32,
      0x00010041#32].all (fun w => decide (decode w = .error .immMustBeZero)) = true := by decide

/-- The bits above the request word spell nothing. -/
theorem test_decodeTableWord :
    decodeTableWord 32 0x00001202 = some (.crcTbl 0x12) ∧ decodeTableWord 32 0x06 = none ∧
      decodeTableWord 40 0x0100000001 = none := by decide

/-! ## The printed CRC table (10_state.md R18) -/

def printedTable : List Half :=
    [0x0000, 0x1021, 0x2042, 0x3063, 0x4084, 0x50A5, 0x60C6, 0x70E7,
      0x8108, 0x9129, 0xA14A, 0xB16B, 0xC18C, 0xD1AD, 0xE1CE, 0xF1EF,
      0x1231, 0x0210, 0x3273, 0x2252, 0x52B5, 0x4294, 0x72F7, 0x62D6,
      0x9339, 0x8318, 0xB37B, 0xA35A, 0xD3BD, 0xC39C, 0xF3FF, 0xE3DE] ++
    [0x2462, 0x3443, 0x0420, 0x1401, 0x64E6, 0x74C7, 0x44A4, 0x5485,
      0xA56A, 0xB54B, 0x8528, 0x9509, 0xE5EE, 0xF5CF, 0xC5AC, 0xD58D,
      0x3653, 0x2672, 0x1611, 0x0630, 0x76D7, 0x66F6, 0x5695, 0x46B4,
      0xB75B, 0xA77A, 0x9719, 0x8738, 0xF7DF, 0xE7FE, 0xD79D, 0xC7BC] ++
    [0x48C4, 0x58E5, 0x6886, 0x78A7, 0x0840, 0x1861, 0x2802, 0x3823,
      0xC9CC, 0xD9ED, 0xE98E, 0xF9AF, 0x8948, 0x9969, 0xA90A, 0xB92B,
      0x5AF5, 0x4AD4, 0x7AB7, 0x6A96, 0x1A71, 0x0A50, 0x3A33, 0x2A12,
      0xDBFD, 0xCBDC, 0xFBBF, 0xEB9E, 0x9B79, 0x8B58, 0xBB3B, 0xAB1A] ++
    [0x6CA6, 0x7C87, 0x4CE4, 0x5CC5, 0x2C22, 0x3C03, 0x0C60, 0x1C41,
      0xEDAE, 0xFD8F, 0xCDEC, 0xDDCD, 0xAD2A, 0xBD0B, 0x8D68, 0x9D49,
      0x7E97, 0x6EB6, 0x5ED5, 0x4EF4, 0x3E13, 0x2E32, 0x1E51, 0x0E70,
      0xFF9F, 0xEFBE, 0xDFDD, 0xCFFC, 0xBF1B, 0xAF3A, 0x9F59, 0x8F78] ++
    [0x9188, 0x81A9, 0xB1CA, 0xA1EB, 0xD10C, 0xC12D, 0xF14E, 0xE16F,
      0x1080, 0x00A1, 0x30C2, 0x20E3, 0x5004, 0x4025, 0x7046, 0x6067,
      0x83B9, 0x9398, 0xA3FB, 0xB3DA, 0xC33D, 0xD31C, 0xE37F, 0xF35E,
      0x02B1, 0x1290, 0x22F3, 0x32D2, 0x4235, 0x5214, 0x6277, 0x7256] ++
    [0xB5EA, 0xA5CB, 0x95A8, 0x8589, 0xF56E, 0xE54F, 0xD52C, 0xC50D,
      0x34E2, 0x24C3, 0x14A0, 0x0481, 0x7466, 0x6447, 0x5424, 0x4405,
      0xA7DB, 0xB7FA, 0x8799, 0x97B8, 0xE75F, 0xF77E, 0xC71D, 0xD73C,
      0x26D3, 0x36F2, 0x0691, 0x16B0, 0x6657, 0x7676, 0x4615, 0x5634] ++
    [0xD94C, 0xC96D, 0xF90E, 0xE92F, 0x99C8, 0x89E9, 0xB98A, 0xA9AB,
      0x5844, 0x4865, 0x7806, 0x6827, 0x18C0, 0x08E1, 0x3882, 0x28A3,
      0xCB7D, 0xDB5C, 0xEB3F, 0xFB1E, 0x8BF9, 0x9BD8, 0xABBB, 0xBB9A,
      0x4A75, 0x5A54, 0x6A37, 0x7A16, 0x0AF1, 0x1AD0, 0x2AB3, 0x3A92] ++
    [0xFD2E, 0xED0F, 0xDD6C, 0xCD4D, 0xBDAA, 0xAD8B, 0x9DE8, 0x8DC9,
      0x7C26, 0x6C07, 0x5C64, 0x4C45, 0x3CA2, 0x2C83, 0x1CE0, 0x0CC1,
      0xEF1F, 0xFF3E, 0xCF5D, 0xDF7C, 0xAF9B, 0xBFBA, 0x8FD9, 0x9FF8,
      0x6E17, 0x7E36, 0x4E55, 0x5E74, 0x2E93, 0x3EB2, 0x0ED1, 0x1EF0]

theorem test_crcTable_is_printed : (List.range 256).map (fun i => crcTable (BitVec.ofNat 8 i)) = printedTable := by
  decide +kernel

/-! ## One step, against the vectors of 95_test_vectors.md -/

/-- The vectors' block: the default key, and 0x0801 as the example command type. -/
def block : Params := { builtParams with cmdKeypress := 0x0801 }

/-- The block out of reset, its registers given, with these events to come. -/
def asked (es : List HostEvent) (crc : Half := 0) (ks : BitVec 4 := 0) : State :=
  { State.reset with params := block, inbox := es, crcAcc := crc, ksIdx := ks }

/-- A block with this `P_MAX_BUF`. -/
def limited (n : Word) (s : State) : State := { s with params := { block with maxBuf := n } }

/-- A state with this buffer at port A. -/
def holding (a : Bytes) : State := { asked [] with inA := a }

/-- What one step answers: the response and the two registers. -/
def answered (s : State) : Option (Response × Half × BitVec 4) :=
  match step s with
  | .next t => t.response.map fun r => (r, t.crcAcc, t.ksIdx)
  | .fault _ => none
  | .refused _ => none

/-- CR4. -/
theorem test_crc16_FFFF :
    answered (asked [.request 0x00000001 [0xFF, 0xFF]]) = some ({ status := .ok, v0 := 0x1D0F }, 0, 0) := by decide

/-- CS8: CRC16 does not touch CRC_ACC. -/
theorem test_crc16_keeps_acc :
    answered (asked [.request 0x00000001 [0x41]] 0x5436 9) = some ({ status := .ok, v0 := 0x58E5 }, 0x5436, 9) := by decide

/-- CT7. -/
theorem test_crcTbl : answered (asked [.request 0x0000A502 []]) = some ({ status := .ok, v0 := 0xE54F }, 0, 0) := by decide

/-- E6: CRC_TBL ignores A. -/
theorem test_crcTbl_ignores_A :
    answered (limited 1 (asked [.request 0x00000002 [0, 0]])) = some ({ status := .ok }, 0, 0) := by decide

/-- CS1. -/
theorem test_crcInit : answered (asked [.request 0x00000003 [1]] 0xBEEF 3) = some ({ status := .ok }, 0, 3) := by decide

/-- CS3. -/
theorem test_crcFeed :
    answered (asked [.request 0x00000004 [0x01, 0x00, 0x01]] 0xFB22) = some ({ status := .ok, v0 := 0x5436 }, 0x5436, 0) := by
  decide

/-- CS6. -/
theorem test_crcFeed_long :
    answered (limited 2 (asked [.request 0x00000004 [0, 0, 0]] 0x5436)) = some ({ status := .errLen }, 0x5436, 0) := by decide

/-- CS5. -/
theorem test_crcRead :
    answered (asked [.request 0x00000005 [7]] 0x5436) = some ({ status := .ok, v0 := 0x5436 }, 0x5436, 0) := by decide

/-- X2: the key wraps, and XOR does not touch KS_IDX. -/
theorem test_xor_wraps :
    answered (asked [.request 0x00000010 (List.replicate 20 0)] 0 9) =
      some ({ status := .ok
              out := [0x16, 0x6C, 0x14, 0xE6, 0x2E, 0x91, 0x0D, 0x40, 0x21, 0x35, 0xD5, 0x40, 0x13, 0x03, 0xE9, 0x80,
                0x16, 0x6C, 0x14, 0xE6] }, 0, 9) := by decide

/-- X5. -/
theorem test_xor_hello :
    answered (asked [.request 0x00000010 [0x68, 0x65, 0x6C, 0x6C, 0x6F]]) =
      some ({ status := .ok, out := [0x7E, 0x09, 0x78, 0x8A, 0x41] }, 0, 0) := by decide

/-- X6. -/
theorem test_ksInit : answered (asked [.request 0x00000011 []] 0x1111 12) = some ({ status := .ok }, 0x1111, 0) := by decide

/-- X10: key bytes 15, 0, 1. -/
theorem test_ksXor_wraps :
    answered (asked [.request 0x00000012 [0x01, 0x02, 0x03]] 0 15) =
      some ({ status := .ok, out := [0x81, 0x14, 0x6F] }, 0, 2) := by decide

/-- X13. -/
theorem test_ksXor_long :
    answered (limited 2 (asked [.request 0x00000012 [0, 0, 0]] 0 5)) = some ({ status := .errLen }, 0, 5) := by decide

/-- FC4: the body crosses the key wrap. -/
theorem test_frameEnc_wraps :
    answered (asked [.request 0x00FFFF20 [0, 1, 2, 3, 4, 5, 6, 7, 8, 9, 10, 11, 12, 13, 14, 15]]) =
      some ({ status := .ok, v0 := 0x557A, v1 := 20
              out := [0xAB, 0xCD, 0x14, 0x00, 0xE9, 0x93, 0x04, 0xE6, 0x2E, 0x90, 0x0F, 0x43, 0x25, 0x30, 0xD3, 0x47, 0x1B,
                0x0A, 0xE3, 0x8B, 0x1A, 0x61, 0x1A, 0xE9, 0x54, 0xC4, 0xDC, 0xBA] }, 0, 0) := by
  decide +kernel

/-- FC3: the empty body. -/
theorem test_frameEnc_empty :
    answered (asked [.request 0x00123420 []] 5 6) =
      some ({ status := .ok, v0 := 0xCB1B, v1 := 4
              out := [0xAB, 0xCD, 0x04, 0x00, 0x22, 0x7E, 0x14, 0xE6, 0x35, 0x5A, 0xDC, 0xBA] }, 5, 6) := by decide

/-- FD14: an altered body byte. -/
theorem test_frameDec_altered :
    answered (asked [.request 0x00000021
      [0xAB, 0xCD, 0x05, 0x00, 0x22, 0x7E, 0x15, 0xE6, 0xAF, 0xA7, 0x59, 0xDC, 0xBA]]) =
      some ({ status := .ok, flags := 0x02, v0 := 0x1234, v1 := 0x5436, v2 := 0xC5BE, v3 := 1, out := [0x81] }, 0, 0) := by
  decide

/-- FD11: L = 2. -/
theorem test_frameDec_short_length :
    answered (asked [.request 0x00000021 [0xAB, 0xCD, 0x02, 0x00, 0x22, 0x7E, 0x36, 0x1D, 0xDC, 0xBA]]) =
      some ({ status := .frameErr, v0 := 2 }, 0, 0) := by decide

/-- RS4: two frames back to back. -/
theorem test_rsyncCheck_two_frames :
    answered (asked [.request 0x00000030 (frameFC1 ++ frameFC1)]) = some ({ status := .ok, flags := 0x01 }, 0, 0) := by decide

/-- RS9. -/
theorem test_rsyncCheck_overlap :
    answered (asked [.request 0x00000030 [0xAB, 0xCD, 0xBA]]) = some ({ status := .ok }, 0, 0) := by decide

/-- RS11: a false trailer inside the frame. -/
theorem test_rsyncScan_shortest :
    answered (asked [.request 0x00000031
      [0x00, 0xAB, 0xCD, 0x07, 0x00, 0x22, 0x7E, 0x17, 0xE6, 0xDC, 0xBA, 0x0D, 0x33, 0x91, 0xDC, 0xBA]]) =
      some ({ status := .ok, v0 := 1, v1 := 10
              out := [0xAB, 0xCD, 0x07, 0x00, 0x22, 0x7E, 0x17, 0xE6, 0xDC, 0xBA] }, 0, 0) := by decide

/-- RS12: the same under `P_SCAN_MODE` = longest. -/
theorem test_rsyncScan_longest :
    answered { asked [.request 0x00000031
      [0x00, 0xAB, 0xCD, 0x07, 0x00, 0x22, 0x7E, 0x17, 0xE6, 0xDC, 0xBA, 0x0D, 0x33, 0x91, 0xDC, 0xBA]] with
        params := { block with scanMode := .longest } } =
      some ({ status := .ok, v0 := 1, v1 := 15
              out := [0xAB, 0xCD, 0x07, 0x00, 0x22, 0x7E, 0x17, 0xE6, 0xDC, 0xBA, 0x0D, 0x33, 0x91, 0xDC, 0xBA] }, 0, 0) := by
  decide

/-- K1, `menu`. -/
theorem test_keycode : answered (asked [.request 0x00000A40 []]) = some ({ status := .ok, v0 := 42 }, 0, 0) := by decide

/-- K2. -/
theorem test_keycode_19 : answered (asked [.request 0x00001340 []]) = some ({ status := .errKey }, 0, 0) := by decide

/-- K1, `*`. -/
theorem test_keyFrame_star :
    answered (asked [.request 0x00000E41 []] 0x1234 5) =
      some ({ status := .ok, v0 := 46
              out := [0xAB, 0xCD, 0x06, 0x00, 0x17, 0x64, 0x16, 0xE6, 0x00, 0x91, 0x01, 0xCF, 0xDC, 0xBA] }, 0x1234, 5) := by
  decide

/-- K6. -/
theorem test_keyFrameCode_49 :
    answered (asked [.request 0x00003142 []]) =
      some ({ status := .ok, v0 := 49
              out := [0xAB, 0xCD, 0x06, 0x00, 0x17, 0x64, 0x16, 0xE6, 0x1F, 0x91, 0x4C, 0xDC, 0xDC, 0xBA] }, 0, 0) := by decide

/-- K11: not ERR_OP. -/
theorem test_keyFrameCode_wide :
    answered (asked [.request 0x00012042 []]) = some ({ status := .errKey }, 0, 0) := by decide

/-- P6 step 3: ERR_OP leaves both registers. -/
theorem test_illegal_word_keeps_state :
    answered (asked [.request 0x01000004 [0]] 0x58E5 2) = some ({ status := .errOp }, 0x58E5, 2) := by decide

/-- R95, I5. -/
theorem test_request_during_reset_stops : answered { asked [.request 0x00000005 []] with inReset := true } = none := by decide

/-- R44's examples of lines that omit and that empty the buffer. -/
theorem test_assembler_buffers :
    Asm.assemble "CRC16 A=" = some [.request 0x00000001 []] ∧ Asm.assemble "CRC_READ" = some [.request 0x00000005 []] ∧
      Asm.assemble "KEYCODE menu" = some [.request 0x00000A40 []] ∧ Asm.assemble "CRC_TBL" = none ∧
      Asm.assemble "RESYNC 8" = none := ⟨by decide, by decide, by decide, by decide, by decide⟩

/-! ## Witnesses: states and operands that meet the statements' hypotheses -/

/-- `readable` for the states below: the length is at most the limit. -/
theorem readable_of {s : State} (h : s.inA.length ≤ s.params.maxBuf.toNat) : readable s := h

/-- A frame under the default key, its length field and its plaintext zero. -/
def smallestFrame : Bytes := [0xAB, 0xCD, 0x04, 0x00, 0x16, 0x6C, 0x14, 0xE6, 0x2E, 0x91, 0xDC, 0xBA]

theorem test_witness_ResetGivesResetValues :
    (asked [.resetAssert, .resetRelease, .request 1 []] 0xBEEF 3).inbox = .resetAssert :: .resetRelease :: [.request 1 []] := by
  decide

theorem test_witness_RequestDuringResetIsRefused :
    { asked [.request 1 []] with inReset := true }.inbox = .request 1 [] :: [] ∧
      { asked [.request 1 []] with inReset := true }.inReset = true := by decide

theorem test_witness_IdleChangesNothing : State.reset.inbox = [] := rfl

theorem test_witness_StepRunsDecodedInstruction :
    requested (asked [.request 0x00123420 [1], .resetAssert]) 0x00123420 [1] [.resetAssert] ∧
      decode 0x00123420 = .ok (.frameEnc 0x1234) := ⟨⟨rfl, rfl⟩, by decide⟩

/-- A reserved bit; the ends of R43's ranges; an immediate bit of each kind of operand; and a state that issues one. -/
theorem test_witness_IllegalWordEndsErrOp :
    illegal 0x01000001 ∧ illegal 0x80000042 ∧ illegal 0x00 ∧ illegal 0x06 ∧ illegal 0x0F ∧ illegal 0x13 ∧ illegal 0x1F ∧
      illegal 0x22 ∧ illegal 0x2F ∧ illegal 0x32 ∧ illegal 0x3F ∧ illegal 0x43 ∧ illegal 0xFF ∧ illegal 0x00000101 ∧
      illegal 0x00010002 ∧ illegal 0x00010040 ∧ requested (asked [.request 0 []]) 0 [] [] := by
  refine ⟨?_, ?_, ?_, ?_, ?_, ?_, ?_, ?_, ?_, ?_, ?_, ?_, ?_, ?_, ?_, ?_, ⟨rfl, rfl⟩⟩ <;> unfold illegal <;> decide

/-- The encoding clauses of the operations without an immediate, and with a byte, and with a 16-bit one. -/
theorem test_witness_encoding_clauses :
    (opField 0x00000101 = 0x01 ∧ immField 0x00000101 ≠ 0) ∧ (opField 0x01000003 = 0x03 ∧ rsvField 0x01000003 ≠ 0) ∧
      (opField 0x80000004 = 0x04 ∧ rsvField 0x80000004 ≠ 0) ∧ (opField 0x00800005 = 0x05 ∧ immField 0x00800005 ≠ 0) ∧
      (opField 0x00000110 = 0x10 ∧ immField 0x00000110 ≠ 0) ∧ (opField 0x00000111 = 0x11 ∧ immField 0x00000111 ≠ 0) ∧
      (opField 0x00000112 = 0x12 ∧ immField 0x00000112 ≠ 0) ∧ (opField 0x00000121 = 0x21 ∧ immField 0x00000121 ≠ 0) ∧
      (opField 0x00000130 = 0x30 ∧ immField 0x00000130 ≠ 0) ∧ (opField 0x00000131 = 0x31 ∧ immField 0x00000131 ≠ 0) ∧
      (opField 0x00010002 = 0x02 ∧ immHigh 0x00010002 ≠ 0) ∧ (opField 0x00010040 = 0x40 ∧ immHigh 0x00010040 ≠ 0) ∧
      (opField 0x00010041 = 0x41 ∧ immHigh 0x00010041 ≠ 0) ∧ (opField 0x01FFFF20 = 0x20 ∧ rsvField 0x01FFFF20 ≠ 0) ∧
      (opField 0x01002042 = 0x42 ∧ rsvField 0x01002042 ≠ 0) := by
  refine ⟨?_, ?_, ?_, ?_, ?_, ?_, ?_, ?_, ?_, ?_, ?_, ?_, ?_, ?_, ?_⟩ <;> decide

/-- A buffer at the limit is readable, one byte more is not (Crc16Request to RsyncScanRequest, LongBufferIsErrLenFirst). -/
theorem test_witness_readable :
    readable (limited 2 (holding [1, 2])) ∧ ¬ readable (limited 2 (holding [1, 2, 3])) ∧ readable (limited 0 (holding [])) := by
  unfold readable; decide

theorem test_witness_CrcInitRequest :
    requested (asked [.request 3 [], .request 5 [9]]) 0x00000003 [] (.request 0x00000005 [9] :: []) ∧
      ∃ t, exec .crcInit (asked [] 0xBEEF) = .next t := ⟨⟨rfl, rfl⟩, _, rfl⟩

theorem test_witness_CrcReadRequest :
    9 ≤ (limited 9 (asked [])).params.maxBuf.toNat ∧
      requested (limited 9 (asked [.request 3 [], .request 4 digitsMessage, .request 5 []])) 0x00000003 []
        (.request 0x00000004 digitsMessage :: .request 0x00000005 [] :: []) := ⟨by decide, rfl, rfl⟩

theorem test_witness_CrcLaws : ([1, 2] : Bytes).length = ([3, 4] : Bytes).length := rfl

theorem test_witness_StreamedCrcIsBufferCrc :
    (asked []).inReset = false ∧ (∀ c ∈ [[0x34, 0x12], ([] : Bytes)], c.length ≤ (limited 2 (asked [])).params.maxBuf.toNat) ∧
      (limited 2 (asked [.request 3 [], .request 4 [0x34, 0x12], .request 4 [], .request 5 []])).inbox =
        .request 0x00000003 [] :: ([[0x34, 0x12], []].map (HostEvent.request 0x00000004) ++ .request 0x00000005 [] :: []) :=
  ⟨rfl, by decide, rfl⟩

theorem test_witness_XorRequest :
    readable (holding [0, 0, 0, 0]) ∧ (holding [0, 0, 0, 0]).params.key = defaultKey ∧
      (holding [0, 0, 0, 0]).inA = [0x00, 0x00, 0x00, 0x00] := ⟨readable_of (by decide), rfl, rfl⟩

theorem test_witness_KsInitRequest :
    1 ≤ (limited 1 (asked [])).params.maxBuf.toNat ∧ (limited 1 (asked [])).params.key = defaultKey ∧
      requested (limited 1 (asked [.request 0x11 [], .request 0x12 [0]] 0 12)) 0x00000011 [] (.request 0x00000012 [0] :: []) ∧
      ∃ t, exec .ksInit (asked [] 0 12) = .next t := ⟨by decide, rfl, ⟨rfl, rfl⟩, _, rfl⟩

theorem test_witness_KsXorRequest :
    readable (limited 16 (holding (List.replicate 16 0))) ∧ 16 ∣ (limited 16 (holding (List.replicate 16 0))).inA.length ∧
      readable (holding []) ∧ (holding []).inA = [] ∧ 4 ≤ (limited 4 (asked [])).params.maxBuf.toNat ∧
      (limited 4 (asked [])).params.key = defaultKey ∧
      requested
        (limited 4 (asked [.request 0x11 [], .request 0x12 [0x34, 0x12, 0x01], .request 0x12 [0x00, 0x01, 0x36, 0x54]]))
        0x00000011 [] (.request 0x00000012 [0x34, 0x12, 0x01] :: .request 0x00000012 [0x00, 0x01, 0x36, 0x54] :: []) :=
  ⟨readable_of (by decide), by decide, readable_of (by decide), rfl, by decide, rfl, rfl, rfl⟩

theorem test_witness_CipherLaws :
    15 < 16 ∧ (List.replicate 17 (5 : Byte))[0]? = some 5 ∧ (List.replicate 17 (5 : Byte))[0 + 16]? = some 5 := by decide

theorem test_witness_StreamedCipherIsBufferCipher :
    (asked []).inReset = false ∧ (∀ c ∈ [[0x34], ([] : Bytes)], c.length ≤ (limited 1 (asked [])).params.maxBuf.toNat) ∧
      ([7] : Bytes).length ≤ (limited 1 (asked [])).params.maxBuf.toNat ∧
      (limited 1 (asked [.request 0x11 [], .request 0x12 [0x34], .request 0x12 [], .request 0x12 [7]])).inbox =
        .request 0x00000011 [] :: ([[0x34], []].map (HostEvent.request 0x00000012) ++ .request 0x00000012 [7] :: []) :=
  ⟨rfl, by decide, by decide, rfl⟩

/-- The longest body, and the shortest one that is too long. -/
theorem test_witness_FrameEncRequest :
    readable (holding (List.replicate 65531 0)) ∧ (holding (List.replicate 65531 0)).inA.length ≤ 65531 ∧
      65531 < (holding (List.replicate 65532 0)).inA.length ∧ readable (holding [1]) ∧
      (holding [1]).params.key = defaultKey ∧ (holding [1]).inA = [0x01] := by
  have h1 : (holding (List.replicate 65531 0)).inA.length = 65531 := List.length_replicate
  have h2 : (holding (List.replicate 65532 0)).inA.length = 65532 := List.length_replicate
  refine ⟨readable_of (h1.trans_le (by decide)), h1.le, by rw [h2]; decide, readable_of (by decide), rfl, rfl⟩

theorem test_witness_FrameByteMap :
    readable (limited 1 (holding [0x01])) ∧ (limited 1 (holding [0x01])).inA.length ≤ 65531 ∧
      0 < (limited 1 (holding [0x01])).inA.length := ⟨readable_of (by decide), by decide, by decide⟩

/-- Each clause of the check at its edge: no leading marker, markers that overlap, both markers and no room, L = 3, L + 8 one
off, and L = 4. -/
theorem test_witness_FrameDecChecks :
    (readable (holding []) ∧ ¬ bothMarkers (holding []).inA) ∧
      (readable (holding [0xAB, 0xCD, 0xBA]) ∧ ¬ bothMarkers (holding [0xAB, 0xCD, 0xBA]).inA) ∧
      (bothMarkers [0xAB, 0xCD, 0x00, 0x00, 0x00, 0xDC, 0xBA] ∧
        ([0xAB, 0xCD, 0x00, 0x00, 0x00, 0xDC, 0xBA] : Bytes).length < 8) ∧
      (bothMarkers [0xAB, 0xCD, 0x03, 0x00, 0x00, 0x00, 0x00, 0x00, 0x00, 0xDC, 0xBA] ∧
        lengthField [0xAB, 0xCD, 0x03, 0x00, 0x00, 0x00, 0x00, 0x00, 0x00, 0xDC, 0xBA] < 4) ∧
      (bothMarkers [0xAB, 0xCD, 0x05, 0x00, 0x00, 0x00, 0x00, 0x00, 0x00, 0x00, 0xDC, 0xBA] ∧
        lengthField [0xAB, 0xCD, 0x05, 0x00, 0x00, 0x00, 0x00, 0x00, 0x00, 0x00, 0xDC, 0xBA] + 8 ≠ 12) ∧
      (readable (limited 12 (holding smallestFrame)) ∧ bothMarkers smallestFrame ∧ 8 ≤ smallestFrame.length ∧
        lengthField smallestFrame + 8 = smallestFrame.length ∧ 4 ≤ lengthField smallestFrame) := by
  refine ⟨⟨readable_of (by decide), ?_⟩, ⟨readable_of (by decide), ?_⟩, ⟨⟨[0, 0, 0], rfl⟩, by decide⟩,
    ⟨⟨[3, 0, 0, 0, 0, 0, 0], rfl⟩, by decide⟩, ⟨⟨[5, 0, 0, 0, 0, 0, 0, 0], rfl⟩, by decide⟩, readable_of (by decide),
    ⟨[0x04, 0x00, 0x16, 0x6C, 0x14, 0xE6, 0x2E, 0x91], rfl⟩, by decide, by decide, by decide⟩
  · rintro ⟨mid, h⟩
    have := congrArg List.length h
    simp [holding] at this
  · rintro ⟨mid, h⟩
    have := congrArg List.length h
    simp [holding] at this

theorem test_witness_FrameDecDecodes :
    readable (limited 12 (holding smallestFrame)) ∧ bothMarkers (limited 12 (holding smallestFrame)).inA ∧
      lengthField (limited 12 (holding smallestFrame)).inA + 8 = (limited 12 (holding smallestFrame)).inA.length ∧
      4 ≤ lengthField (limited 12 (holding smallestFrame)).inA :=
  ⟨readable_of (by decide), ⟨[0x04, 0x00, 0x16, 0x6C, 0x14, 0xE6, 0x2E, 0x91], rfl⟩, by decide, by decide⟩

theorem test_witness_FrameRoundTrip :
    readable (limited 13 (holding [1])) ∧ (limited 13 (holding [1])).inA.length ≤ 65531 ∧
      (limited 13 (holding [1])).inA.length + 12 ≤ (limited 13 (holding [1])).params.maxBuf.toNat ∧
      (limited 13 (holding frameFC1)).params = (limited 13 (holding [1])).params :=
  ⟨readable_of (by decide), by decide, by decide, rfl⟩

theorem test_witness_SoundFrameIsEncoded :
    readable (holding frameFC1) ∧ (∃ t r, exec .frameDec (holding frameFC1) = .next t ∧ t.response = some r ∧ r.status = .ok ∧
      r.flags = 0x03 ∧ (holding [1]).inA = r.out) ∧ (holding [1]).params = (holding frameFC1).params :=
  ⟨readable_of (by decide), ⟨_, _, rfl, rfl, by decide, by decide, by decide⟩, rfl⟩

/-- The first and the last offset of the ciphered part. -/
theorem test_witness_OneByteErrorClearsCrcOk :
    ([1] : Bytes).length ≤ 65531 ∧ 4 ≤ 4 ∧ 10 < ([1] : Bytes).length + 10 ∧ (0x80 : Byte) ≠ 0 ∧
      (holding ((frameEncode defaultKey 0x1234 [1]).modify 4 (· ^^^ 0x80))).inA =
        (frameEncode (holding []).params.key 0x1234 [1]).modify 4 (· ^^^ 0x80) ∧
      readable (holding ((frameEncode defaultKey 0x1234 [1]).modify 4 (· ^^^ 0x80))) :=
  ⟨by decide, by decide, by decide, by decide, rfl, readable_of (by decide)⟩

theorem test_witness_StreamingEnginesBuildFrame :
    (limited 7 (holding [1])).inA.length ≤ 65531 ∧
      (limited 7 (holding [1])).inA.length + 6 ≤ (limited 7 (holding [1])).params.maxBuf.toNat ∧
      (limited 7 (holding [1])).crcAcc = 0x0000 ∧ (limited 7 (holding [1])).ksIdx = 0 := by decide

theorem test_witness_RsyncCheckRequest :
    readable (holding [0xAB, 0xCD, 0xDC, 0xBA]) ∧ bothMarkers (holding [0xAB, 0xCD, 0xDC, 0xBA]).inA ∧
      readable (holding [0xAB, 0xCD, 0xBA]) ∧ ¬ bothMarkers (holding [0xAB, 0xCD, 0xBA]).inA := by
  refine ⟨readable_of (by decide), ⟨[], rfl⟩, readable_of (by decide), ?_⟩
  rintro ⟨mid, h⟩
  have := congrArg List.length h
  simp [holding] at this

/-- A buffer with two trailing markers after its leading marker. -/
def twoTrailers : Bytes := [0x00, 0xAB, 0xCD, 0xDC, 0xBA, 0x07, 0xDC, 0xBA]

/-- The shortest scan ends at index 3, the longest at index 6. -/
theorem test_witness_RsyncScanRequest_found :
    readable (holding twoTrailers) ∧ leadAt twoTrailers 1 ∧ (∀ i', i' < 1 → ¬ leadAt twoTrailers i') ∧ 1 + 2 ≤ 3 ∧
      trailAt twoTrailers 3 ∧ (holding twoTrailers).params.scanMode = .shortest ∧
      (∀ j', 1 + 2 ≤ j' → j' < 3 → ¬ trailAt twoTrailers j') ∧ trailAt twoTrailers 6 ∧
      ∀ j', 6 < j' → ¬ trailAt twoTrailers j' := by
  refine ⟨readable_of (by decide), ⟨rfl, rfl⟩, ?_, by decide, ⟨rfl, rfl⟩, rfl, ?_, ⟨rfl, rfl⟩, ?_⟩
  · intro i h
    unfold leadAt
    interval_cases i
    decide
  · intro j h1 h2
    omega
  · intro j h
    have : twoTrailers[j + 1]? = none := List.getElem?_eq_none (by simp [twoTrailers]; omega)
    rintro ⟨_, h2⟩
    rw [this] at h2
    cases h2

/-- A leading marker alone. -/
theorem test_witness_RsyncScanRequest_notFound :
    readable (holding [0xAB, 0xCD]) ∧ ∀ i j, leadAt (holding [0xAB, 0xCD]).inA i → i + 2 ≤ j →
      ¬ trailAt (holding [0xAB, 0xCD]).inA j := by
  refine ⟨readable_of (by decide), ?_⟩
  intro i j _ h
  have : (holding [0xAB, 0xCD]).inA[j + 1]? = none := List.getElem?_eq_none (by simp [holding]; omega)
  rintro ⟨_, h2⟩
  rw [this] at h2
  cases h2

theorem test_witness_ScannedRangeIsFramed :
    readable (holding twoTrailers) ∧ ∃ t r, exec .rsyncScan (holding twoTrailers) = .next t ∧ t.response = some r ∧
      r.status = .ok := ⟨readable_of (by decide), _, _, rfl, rfl, by decide⟩

theorem test_witness_FrameAfterNoiseIsRecovered :
    ([1] : Bytes).length ≤ 65531 ∧ (holding []).params.scanMode = .shortest ∧
      (∀ i, ¬ leadAt ([0xAB] : Bytes) i) ∧
      (∀ j, 2 ≤ j → j < ([1] : Bytes).length + 10 → ¬ trailAt (frameEncode defaultKey 0x1234 [1]) j) ∧
      (holding ([0xAB] ++ frameEncode defaultKey 0x1234 [1] ++ [0xDC])).inA =
        [0xAB] ++ frameEncode (holding []).params.key 0x1234 [1] ++ [0xDC] ∧
      readable (holding ([0xAB] ++ frameEncode defaultKey 0x1234 [1] ++ [0xDC])) := by
  refine ⟨by decide, rfl, ?_, ?_, rfl, readable_of (by decide)⟩
  · rintro i ⟨h1, h2⟩
    cases i <;> simp at h1 h2
  · intro j h1 h2
    simp only [List.length_singleton] at h2
    unfold trailAt
    interval_cases j <;> decide

/-- The framed read at the limit, the same read one byte over it, and the empty read of a count of 0, at `P_MAX_BUF` 0. -/
theorem test_witness_ResyncFollowsProcedure :
    (limited 4 (asked [])).inReset = false ∧
      (bothMarkers (([0xAB, 0xCD, 0xDC, 0xBA, 0x00] : Bytes).take (min 9 4)) ∧
        (([0xAB, 0xCD, 0xDC, 0xBA, 0x00] : Bytes).take (min 9 4)).length ≤ (limited 4 (asked [])).params.maxBuf.toNat) ∧
      ¬ (([0xAB, 0xCD, 0xDC, 0xBA, 0x00] : Bytes).take (min 9 4)).length ≤ (limited 3 (asked [])).params.maxBuf.toNat ∧
      ¬ bothMarkers (([0xAB, 0xCD, 0xDC, 0xBA, 0x00] : Bytes).take (min 9 0)) ∧
      (limited 0 (asked [])).params.maxBuf.toNat < ([0x00] : Bytes).length := by
  refine ⟨rfl, ⟨⟨[], rfl⟩, by decide⟩, by decide, ?_, by decide⟩
  rintro ⟨mid, h⟩
  simp at h

/-- The edges of the key operands (KeycodeRequest, KeyFrameRequest, KeyFrameCodeRequest). -/
theorem test_witness_key_operands :
    (18 : Byte).toNat ≤ 18 ∧ 18 < (19 : Byte).toNat ∧ (31 : Half).toNat < 32 ∧ 50 < (51 : Half).toNat ∧
      32 ≤ (32 : Half).toNat ∧ (50 : Half).toNat ≤ 50 := by decide

theorem test_witness_KeyFrameRequest :
    (∃ r, exec (.keyFrame 0) (asked []) = .next (answerOnly (asked []) r)) ∧
      (∃ r, exec (.keyFrame 18) (asked []) = .next (answerOnly (asked []) r)) ∧ (asked []).params.key = defaultKey ∧
      (asked []).params.cmdKeypress = 0x0801 := ⟨⟨_, rfl⟩, ⟨_, rfl⟩, rfl, rfl⟩

theorem test_witness_KeypressFrameDecodes :
    (18 : Byte).toNat ≤ 18 ∧
      (∃ r, exec (.keyFrame 18) (limited 14 (asked [])) = .next (answerOnly (limited 14 (asked [])) r) ∧
        { limited 14 (asked []) with inA := r.out }.inA = r.out) ∧
      14 ≤ (limited 14 (asked [])).params.maxBuf.toNat := ⟨by decide, ⟨_, rfl, rfl⟩, by decide⟩

theorem test_witness_PressKeepsOrderAndSettle : (asked [.request 5 []] 0x1234 5).inReset = false := rfl

theorem test_witness_RegistersAreReadByTheirOperationsOnly :
    (Instr.crcInit ≠ .crcFeed ∧ Instr.crcInit ≠ .crcRead ∧ ∃ t, exec .crcInit (asked [] 7) = .next t) ∧
      (Instr.ksInit ≠ .ksXor ∧ ∃ t, exec .ksInit (asked [] 0 7) = .next t) :=
  ⟨⟨by decide, by decide, _, rfl⟩, by decide, _, rfl⟩

/-- A FRAME_ERR with each reason, and another error. -/
theorem test_witness_ErrorLeavesStateUntouched :
    (∃ t r, requested (asked [.request 0x21 []]) 0x21 [] [] ∧ step (asked [.request 0x21 []]) = .next t ∧
      t.response = some r ∧ r.status.isError = true ∧ r.status = .frameErr) ∧
    (∃ t r, requested (asked [.request 0x21 [0xAB, 0xCD, 0xDC, 0xBA]]) 0x21 [0xAB, 0xCD, 0xDC, 0xBA] [] ∧
      step (asked [.request 0x21 [0xAB, 0xCD, 0xDC, 0xBA]]) = .next t ∧ t.response = some r ∧ r.v0 = 2) ∧
    (∃ t r, requested (asked [.request 0x1340 []]) 0x1340 [] [] ∧ step (asked [.request 0x1340 []]) = .next t ∧
      t.response = some r ∧ r.status.isError = true ∧ r.status ≠ .frameErr) :=
  ⟨⟨_, _, ⟨rfl, rfl⟩, rfl, rfl, by decide, by decide⟩, ⟨_, _, ⟨rfl, rfl⟩, rfl, rfl, by decide⟩,
    _, _, ⟨rfl, rfl⟩, rfl, rfl, by decide, by decide⟩

/-- Also for FlagsOfTwoOperationsOnly. -/
theorem test_witness_StatusCauses :
    (∃ t r, exec .frameDec (holding frameFC1) = .next t ∧ t.response = some r ∧ r.flags = 0x03) ∧
      (∃ t r, exec .rsyncCheck (holding frameFC1) = .next t ∧ t.response = some r ∧ r.flags = 0x01) ∧
      ∃ t r, exec .crc16 (holding []) = .next t ∧ t.response = some r ∧ r.flags = 0 :=
  ⟨⟨_, _, rfl, rfl, by decide⟩, ⟨_, _, rfl, rfl, by decide⟩, _, _, rfl, rfl, by decide⟩

/-- Each way a status arises: a frame without markers, a scan that finds no range and one that finds one. -/
theorem test_witness_StatusCauses_stops :
    (∃ t r, exec .frameDec (holding []) = .next t ∧ t.response = some r ∧ r.status = .frameErr) ∧
      (∃ t r, exec .rsyncScan (holding []) = .next t ∧ t.response = some r ∧ r.status = .notFound) ∧
      hasMarkedRange twoTrailers ∧ ¬ failsFrameCheck smallestFrame := by
  refine ⟨⟨_, _, rfl, rfl, by decide⟩, ⟨_, _, rfl, rfl, by decide⟩, ⟨1, 3, ⟨rfl, rfl⟩, by decide, ⟨rfl, rfl⟩⟩, ?_⟩
  rintro (h | h | h | h)
  · exact h ⟨[0x04, 0x00, 0x16, 0x6C, 0x14, 0xE6, 0x2E, 0x91], rfl⟩
  all_goals exact absurd h (by decide)

theorem test_witness_StatusCodes :
    (asked [.request 0 []]).inbox ≠ [] ∧ ∃ t r, step (asked [.request 0 []]) = .next t ∧ t.response = some r :=
  ⟨by decide, _, _, rfl, rfl⟩

theorem test_witness_readsBuffer :
    readsBuffer (.frameEnc 7) = true ∧ readsBuffer .ksXor = true ∧ readsBuffer .crcRead = false ∧
      readsBuffer (.keyFrameCode 32) = false := by decide

theorem test_witness_EarlierResponseIsNotSeen :
    (asked [.request 5 [1], .resetAssert]).inbox = .request 5 [1] :: [.resetAssert] := rfl

theorem test_witness_LaterRequestsAreNotSeen :
    (∃ t, step (asked [.request 5 []]) = .next t) ∧
      ∃ q, step { asked [.request 5 []] with inReset := true } = .refused q := ⟨⟨_, rfl⟩, _, rfl⟩

theorem test_witness_ParametersNeverChange : ∃ t, core.run 2 (asked [.request 3 [], .resetAssert]) = .next t := ⟨_, rfl⟩

/-- A running block with a standing error response, and a block held in reset. -/
theorem test_witness_StepKeepsInvariant :
    StateInv { asked [.request 5 []] 0x1234 5 with response := some { status := .frameErr, v0 := 2 } } ∧
      (∃ t, step { asked [.request 5 []] 0x1234 5 with response := some { status := .frameErr, v0 := 2 } } = .next t) ∧
      StateInv { asked [.resetRelease] with inReset := true } := by
  refine ⟨⟨rfl, by decide, ?_⟩, ⟨_, rfl⟩, ⟨rfl, by decide, ?_⟩⟩
  · intro r h
    simp only [Option.some.injEq] at h
    subst h
    decide
  · intro r h
    cases h

/-- Also for ObedienceIsKeptAndAnswered. -/
theorem test_witness_ObedientHostIsAlwaysAnswered :
    hostObeysReset false [.request 3 [], .resetAssert, .resetRelease, .request 5 []] = true ∧
      hostObeysReset true [.resetRelease, .request 5 []] = true := by decide

end Sys2Proof.Tests
end

section
/-! SUPPORT. The request word: its fields as numbers, and what the decoder accepts, said once. -/

open Sys2Proof.Machine Sys2Proof.Stmt

namespace Sys2Proof

variable {w : Word}

/-! ## The fields as numbers (R33) -/

theorem toNat_opField (w : Word) : (opField w).toNat = w.toNat % 256 := by
  simp [opField]

theorem toNat_immField (w : Word) : (immField w).toNat = w.toNat / 256 % 65536 := by
  simp [immField, Nat.shiftRight_eq_div_pow]

theorem toNat_rsvField (w : Word) : (rsvField w).toNat = w.toNat / 16777216 := by
  have := w.isLt
  simp only [rsvField, BitVec.extractLsb'_toNat, Nat.shiftRight_eq_div_pow]
  omega

theorem toNat_immLow (w : Word) : (immLow w).toNat = (immField w).toNat % 256 := by
  simp [immLow]

theorem toNat_immHigh (w : Word) : (immHigh w).toNat = (immField w).toNat / 256 := by
  have := (immField w).isLt
  simp only [immHigh, BitVec.extractLsb'_toNat, Nat.shiftRight_eq_div_pow]
  omega

theorem toNat_byteImm (b : Byte) : (byteImm b).toNat = b.toNat :=
  (BitVec.toNat_append (0 : Byte) b).trans (by simp)

theorem rsvField_eq_zero_iff : rsvField w = 0 ↔ w.toNat / 16777216 = 0 := by
  rw [← BitVec.toNat_inj, toNat_rsvField]
  rfl

theorem immHigh_eq_zero_iff : immHigh w = 0 ↔ (immField w).toNat / 256 = 0 := by
  rw [← BitVec.toNat_inj, toNat_immHigh]
  rfl

/-- A byte operand is the immediate whose upper byte is 0 (R34). -/
theorem immField_eq_byteImm_iff {b : Byte} : immField w = byteImm b ↔ immHigh w = 0 ∧ immLow w = b := by
  rw [immHigh_eq_zero_iff, ← BitVec.toNat_inj, ← BitVec.toNat_inj, toNat_byteImm, toNat_immLow]
  have := b.isLt
  omega

/-! ## Decoding -/

theorem decodeNoImm_eq_ok_iff {i j : Instr} : decodeNoImm w i = .ok j ↔ immField w = 0 ∧ i = j := by
  unfold decodeNoImm
  split
  next himm => simp [himm]
  next himm => exact ⟨nofun, fun h => absurd h.1 himm⟩

theorem decodeByteImm_eq_ok_iff {i : Byte → Instr} {j : Instr} :
    decodeByteImm w i = .ok j ↔ ∃ b, immField w = byteImm b ∧ i b = j := by
  simp only [immField_eq_byteImm_iff]
  unfold decodeByteImm
  split
  next himm => simp [himm]
  next himm => exact ⟨nofun, fun ⟨_, h, _⟩ => absurd h.1 himm⟩

/-- A word that the opcode map takes for `i` has the fields of `i`. -/
theorem fields_of_decodeOp {i : Instr} (h : decodeOp w = .ok i) : opField w = i.opcode ∧ immField w = i.imm := by
  unfold decodeOp at h
  split at h <;> rename_i hop
  case h_16 => cases h
  case h_9 | h_15 => cases h; exact ⟨hop, rfl⟩
  case h_2 | h_13 | h_14 =>
    obtain ⟨b, himm, rfl⟩ := decodeByteImm_eq_ok_iff.mp h
    exact ⟨hop, himm⟩
  all_goals
    obtain ⟨himm, rfl⟩ := decodeNoImm_eq_ok_iff.mp h
    exact ⟨hop, himm⟩

theorem decodeOp_of_fields {i : Instr} (hop : opField w = i.opcode) (himm : immField w = i.imm) :
    decodeOp w = .ok i := by
  cases i <;> simp only [Instr.opcode, Instr.imm] at hop himm <;>
    simp [decodeOp, hop, himm, decodeNoImm_eq_ok_iff, decodeByteImm_eq_ok_iff]

/-- The decoder, said once (R33, R34, R42): a word spells `i` exactly when its three fields are those of `i`. -/
theorem decode_eq_ok_iff {i : Instr} :
    decode w = .ok i ↔ rsvField w = 0 ∧ opField w = i.opcode ∧ immField w = i.imm := by
  unfold decode
  split
  next hrsv => exact ⟨fun h => ⟨hrsv, fields_of_decodeOp h⟩, fun ⟨_, hop, himm⟩ => decodeOp_of_fields hop himm⟩
  next hrsv => exact ⟨nofun, fun h => absurd h.1 hrsv⟩

/-! ## Encoding -/

/-- The request word of R44: the immediate above the operation code. -/
theorem toNat_packWord (imm : Half) (op : Byte) : (packWord imm op).toNat = imm.toNat * 256 + op.toNat := by
  simp only [packWord, BitVec.toNat_append]
  rw [← Nat.shiftLeft_add_eq_or_of_lt op.isLt, Nat.shiftLeft_eq]
  simp

theorem opField_packWord (imm : Half) (op : Byte) : opField (packWord imm op) = op := by
  apply BitVec.eq_of_toNat_eq
  rw [toNat_opField, toNat_packWord]
  omega

theorem immField_packWord (imm : Half) (op : Byte) : immField (packWord imm op) = imm := by
  apply BitVec.eq_of_toNat_eq
  rw [toNat_immField, toNat_packWord]
  omega

theorem rsvField_packWord (imm : Half) (op : Byte) : rsvField (packWord imm op) = 0 := by
  rw [rsvField_eq_zero_iff, toNat_packWord]
  omega

/-- No bit of an instruction is lost in its word. -/
theorem decode_encode (i : Instr) : decode (encode i) = .ok i :=
  decode_eq_ok_iff.mpr ⟨rsvField_packWord .., opField_packWord .., immField_packWord ..⟩

theorem packWord_eq_or (imm : Half) (op : Byte) : packWord imm op = op.setWidth 32 ||| (imm.setWidth 32 <<< 8) := by
  apply BitVec.eq_of_toNat_eq
  have := op.isLt
  have := imm.isLt
  rw [toNat_packWord, BitVec.toNat_or, BitVec.toNat_shiftLeft, BitVec.toNat_setWidth, BitVec.toNat_setWidth,
    Nat.mod_eq_of_lt (a := op.toNat) (by omega), Nat.mod_eq_of_lt (a := imm.toNat) (by omega),
    Nat.mod_eq_of_lt (by rw [Nat.shiftLeft_eq]; omega), Nat.or_comm, ← Nat.shiftLeft_add_eq_or_of_lt op.isLt,
    Nat.shiftLeft_eq]

theorem setWidth_byteImm (b : Byte) : (byteImm b).setWidth 32 = b.setWidth 32 := by
  apply BitVec.eq_of_toNat_eq
  simp [toNat_byteImm]

/-! ## Illegal words (R43) -/

/-- How an operation uses its immediate (R34): not at all, its low byte, or the whole of it. -/
theorem Instr.immediate_cases (i : Instr) :
    (i.opcode.toNat ∈ [0x01, 0x03, 0x04, 0x05, 0x10, 0x11, 0x12, 0x21, 0x30, 0x31] ∧ i.imm.toNat = 0) ∨
      (i.opcode.toNat ∈ [0x02, 0x40, 0x41] ∧ i.imm.toNat < 256) ∨ i.opcode.toNat ∈ [0x20, 0x42] := by
  cases i
  case crcTbl b | keycode b | keyFrame b =>
    exact .inr (.inl ⟨by simp [Instr.opcode], (toNat_byteImm b).trans_lt b.isLt⟩)
  case frameEnc | keyFrameCode => exact .inr (.inr (by simp [Instr.opcode]))
  all_goals exact .inl ⟨by simp [Instr.opcode], rfl⟩

theorem not_illegal_of_decode {i : Instr} (h : decode w = .ok i) : ¬ illegal w := by
  obtain ⟨hrsv, hop, himm⟩ := decode_eq_ok_iff.mp h
  have hcases := i.immediate_cases
  rw [← hop, ← himm, toNat_opField, toNat_immField] at hcases
  have hrsv' : w.toNat / 16777216 = 0 := rsvField_eq_zero_iff.mp hrsv
  simp only [List.mem_cons, List.not_mem_nil, or_false] at hcases
  simp only [illegal, List.mem_cons, List.not_mem_nil, or_false]
  omega

/-- A word that spells no operation is answered ERR_OP and leaves the block as it was (R43, R86). -/
theorem endsErrOp_of_not_decoded (h : ∀ i, decode w ≠ .ok i) : endsErrOp w := by
  intro s a rest ⟨hinbox, hreset⟩
  rw [step_request hinbox hreset]
  cases hd : decode w with
  | ok i => exact absurd hd (h i)
  | error e => exact runRequest_error hd

theorem endsErrOp_of_illegal (h : illegal w) : endsErrOp w :=
  endsErrOp_of_not_decoded fun _ hd => not_illegal_of_decode hd h

/-! ## The encoding clauses of the operations -/

theorem illegal_of_rsvField (h : rsvField w ≠ 0) : illegal w :=
  .inl fun h0 => h (rsvField_eq_zero_iff.mpr h0)

/-- A byte operand with a bit set in its upper byte. -/
theorem illegal_of_immHigh (hop : (opField w).toNat ∈ [0x02, 0x40, 0x41]) (h : immHigh w ≠ 0) : illegal w := by
  rw [toNat_opField] at hop
  refine .inr (.inr (.inr ⟨hop, ?_⟩))
  rw [ne_eq, immHigh_eq_zero_iff, toNat_immField] at h
  omega

/-- The encoding of an operation with a byte operand follows from its opcode and its immediate. -/
theorem byteEncoding_of {op : Byte} {i : Byte → Instr} (hop : ∀ b, (i b).opcode = op)
    (himm : ∀ b, (i b).imm = byteImm b) (hbyte : op.toNat ∈ [0x02, 0x40, 0x41]) : byteEncoding op i := by
  constructor
  · intro b
    rw [← setWidth_byteImm b, ← packWord_eq_or, ← hop b, ← himm b]
    exact decode_encode (i b)
  · rintro w rfl (h | h)
    · exact endsErrOp_of_illegal (illegal_of_immHigh hbyte h)
    · exact endsErrOp_of_illegal (illegal_of_rsvField h)

/-- Settles O6: no illegal word decodes to an operation. -/
theorem illegalWordEndsErrOp : Obligations.IllegalWordEndsErrOp := fun _ => endsErrOp_of_illegal

end Sys2Proof
end

section
/-! SUPPORT. The byte map of a frame (30_encoding.md R36): what stands at each offset. -/

open Sys2Proof.Stmt

namespace Sys2Proof.Machine

/-! ## The response of an operation that writes no register -/

theorem answerOnly_eq_respond (s : State) (r : Response) : answerOnly s r = respond r s := rfl

theorem answerOnly_injective (s : State) : Function.Injective (answerOnly s) := fun _ _ h =>
  Option.some.inj (congrArg State.response h)

/-! ## A number as a 16-bit field -/

theorem le16_ofNat (m : Nat) : le16 (BitVec.ofNat 16 m) = [BitVec.ofNat 8 m, BitVec.ofNat 8 (m / 256)] := by
  have hlow : (BitVec.ofNat 16 m).extractLsb' 0 8 = BitVec.ofNat 8 m := by
    apply BitVec.eq_of_toNat_eq
    simp only [BitVec.extractLsb'_toNat, BitVec.toNat_ofNat, Nat.shiftRight_zero]
    omega
  have hhigh : (BitVec.ofNat 16 m).extractLsb' 8 8 = BitVec.ofNat 8 (m / 256) := by
    apply BitVec.eq_of_toNat_eq
    simp only [BitVec.extractLsb'_toNat, BitVec.toNat_ofNat, Nat.shiftRight_eq_div_pow]
    omega
  rw [le16, hlow, hhigh]

/-! ## Inside the inner block -/

theorem innerBlock_eq (t : Half) (b : Bytes) :
    innerBlock t b = t.extractLsb' 0 8 :: t.extractLsb' 8 8 :: BitVec.ofNat 8 b.length ::
      BitVec.ofNat 8 (b.length / 256) :: b := by
  rw [innerBlock, len16, le16_ofNat]
  rfl

theorem getElem?_innerBlock_body (t : Half) (b : Bytes) (j : Nat) : (innerBlock t b)[4 + j]? = b[j]? := by
  rw [innerBlock_eq, Nat.add_comm]
  rfl

/-! ## Inside a frame -/

section
variable (key : Vector Byte 16) (inner : Bytes)

theorem take_frameAround : (frameAround key inner).take 2 = markLead := rfl

theorem take_drop_frameAround :
    ((frameAround key inner).drop 2).take 2 = [BitVec.ofNat 8 inner.length, BitVec.ofNat 8 (inner.length / 256)] :=
  le16_ofNat inner.length

theorem drop_frameAround : (frameAround key inner).drop (inner.length + 6) = markTrail := by
  rw [frameAround, List.drop_left']
  simp only [List.length_append, length_markLead, length_le16, length_xork]
  omega

/-- The ciphered part: frame offset 4 + j holds byte j of the plaintext, under key byte j. -/
theorem getElem?_frameAround {j : Nat} (h : j < inner.length + 2) :
    (frameAround key inner)[4 + j]? = (inner ++ le16 (crc16 inner))[j]?.map (· ^^^ keyByte key j) := by
  rw [frameAround, List.append_assoc, List.getElem?_append_right (by simp), List.getElem?_append_left (by simpa using h),
    getElem?_xork]
  simp

/-- The ciphered inner block. -/
theorem getElem?_frameAround_inner {j : Nat} (h : j < inner.length) :
    (frameAround key inner)[4 + j]? = inner[j]?.map (· ^^^ keyByte key j) := by
  rw [getElem?_frameAround key inner (by omega), List.getElem?_append_left h]

/-- The ciphered CRC, byte 0 or 1 of it. -/
theorem getElem?_frameAround_crc {i : Nat} (h : i < 2) :
    (frameAround key inner)[4 + (inner.length + i)]? =
      (le16 (crc16 inner))[i]?.map (· ^^^ keyByte key (inner.length + i)) := by
  rw [getElem?_frameAround key inner (by omega), List.getElem?_append_right (by omega), Nat.add_sub_cancel_left]

end

/-- Settles O24: each offset of R36's table by the rule for the part of the frame it lies in. -/
theorem frameByteMap : Obligations.FrameByteMap := by
  intro ct s hread hbody
  refine ⟨_, execFrameEnc_of_le ct hread hbody, ?_⟩
  have hlen := length_innerBlock ct s.inA
  have hinner {j : Nat} (hj : j < s.inA.length + 4) :=
    getElem?_frameAround_inner s.params.key (innerBlock ct s.inA) (hlen ▸ hj)
  have hcrc {i : Nat} (hi : i < 2) := getElem?_frameAround_crc s.params.key (innerBlock ct s.inA) hi
  refine ⟨?_, take_frameAround .., ?_, hinner (j := 0) (by omega), ?_, ?_, ?_, ?_, ?_, ?_, ?_⟩
  · rw [frameEncode, length_frameAround, hlen]
  · rw [frameEncode, take_drop_frameAround, hlen]
  · exact hinner (j := 1) (by omega)
  · rw [frameEncode, hinner (j := 2) (by omega), innerBlock_eq]; rfl
  · rw [frameEncode, hinner (j := 3) (by omega), innerBlock_eq]; rfl
  · intro j hj
    rw [frameEncode, show 8 + j = 4 + (4 + j) by omega, hinner (by omega), getElem?_innerBlock_body]
    rfl
  · have h := hcrc (i := 0) (by omega)
    rw [hlen] at h
    rw [frameEncode, show 8 + s.inA.length = 4 + (s.inA.length + 4 + 0) by omega, h, Nat.add_comm 4]
    rfl
  · have h := hcrc (i := 1) (by omega)
    rw [hlen] at h
    rw [frameEncode, show 9 + s.inA.length = 4 + (s.inA.length + 4 + 1) by omega, h,
      show 5 + s.inA.length = s.inA.length + 4 + 1 by omega]
    rfl
  · rw [frameEncode, show 10 + s.inA.length = (innerBlock ct s.inA).length + 6 by omega, drop_frameAround]
    rfl

end Sys2Proof.Machine
end

section
/-! SUPPORT. The keypress frame (30_encoding.md R39, 44_keypress.md R75, R77). -/

open Sys2Proof.Stmt

namespace Sys2Proof.Machine

theorem execKeyFrame_of_le {tok : Byte} (s : State) (h : tok.toNat ≤ 18) :
    execKeyFrame tok s = .next (respond (keyFrameResponse s.params (BitVec.ofNat 16 (32 + tok.toNat))) s) := by
  simp only [execKeyFrame, keycodeOf_of_le h, complete_eq]

theorem execKeyFrame_of_lt {tok : Byte} (s : State) (h : 18 < tok.toNat) :
    execKeyFrame tok s = .next (respond { status := .errKey } s) := by
  simp only [execKeyFrame, keycodeOf_of_lt h, raise_eq]

theorem zext32_ofNat {m : Nat} (h : m < 65536) : zext32 (BitVec.ofNat 16 m) = BitVec.ofNat 32 m := by
  apply BitVec.eq_of_toNat_eq
  simp only [zext32, BitVec.toNat_setWidth, BitVec.toNat_ofNat]
  omega

/-- A keycode below 256 as a body: its high byte is 0. -/
theorem le16_ofNat_of_lt {m : Nat} (h : m < 256) : le16 (BitVec.ofNat 16 m) = [BitVec.ofNat 8 m, 0x00] := by
  rw [le16_ofNat, Nat.div_eq_of_lt h]
  rfl

/-- R39: a keypress frame around its 6-byte inner block. -/
theorem keyFrameOf_eq (p : Params) {m : Nat} (h : m < 256) :
    keyFrameOf p (BitVec.ofNat 16 m) =
      [0xAB, 0xCD, 0x06, 0x00] ++
        xork p.key (le16 p.cmdKeypress ++ [0x02, 0x00, BitVec.ofNat 8 m, 0x00] ++
          le16 (crc16 (le16 p.cmdKeypress ++ [0x02, 0x00, BitVec.ofNat 8 m, 0x00]))) 0 ++ [0xDC, 0xBA] := by
  have hinner : innerBlock p.cmdKeypress (le16 (BitVec.ofNat 16 m)) =
      le16 p.cmdKeypress ++ [0x02, 0x00, BitVec.ofNat 8 m, 0x00] := by
    rw [le16_ofNat_of_lt h, innerBlock_eq, List.length_cons, List.length_singleton]
    rfl
  rw [keyFrameOf, frameEncode, frameAround, length_innerBlock, length_le16, hinner]
  rfl

/-- R77: the frame of another keycode is the same frame with other bytes at offsets 8, 10 and 11: the low byte of the
keycode and the CRC. -/
theorem keyFrameOf_eq_set (p : Params) {m m' : Nat} (h : m < 256) (h' : m' < 256) :
    ∃ code crcLow crcHigh : Byte, keyFrameOf p (BitVec.ofNat 16 m') =
      (((keyFrameOf p (BitVec.ofNat 16 m)).set 8 code).set 10 crcLow).set 11 crcHigh := by
  rw [keyFrameOf_eq p h, keyFrameOf_eq p h']
  exact ⟨_, _, _, rfl⟩

theorem getElem?_keyFrameOf_eq (p : Params) {m m' j : Nat} (h : m < 256) (h' : m' < 256) (h8 : j ≠ 8) (h10 : j ≠ 10)
    (h11 : j ≠ 11) : (keyFrameOf p (BitVec.ofNat 16 m))[j]? = (keyFrameOf p (BitVec.ofNat 16 m'))[j]? := by
  obtain ⟨code, crcLow, crcHigh, heq⟩ := keyFrameOf_eq_set p h h'
  rw [heq, List.getElem?_set_ne h11.symm, List.getElem?_set_ne h10.symm, List.getElem?_set_ne h8.symm]

/-- The example of R77, the token `up`. -/
theorem keyFrameOf_up {p : Params} (hkey : p.key = defaultKey) (hcmd : p.cmdKeypress = 0x0801) :
    keyFrameOf p 43 = [0xAB, 0xCD, 0x06, 0x00, 0x17, 0x64, 0x16, 0xE6, 0x05, 0x91, 0xF4, 0x30, 0xDC, 0xBA] := by
  rw [keyFrameOf, hkey, hcmd]
  decide

/-- Settles O37: every clause is about the frame of the keycode 32 + token. -/
theorem keyFrameRequest : Obligations.KeyFrameRequest := by
  refine ⟨byteEncoding_of (fun _ => rfl) (fun _ => rfl) (by decide), fun _ s h => execKeyFrame_of_lt s h, ?_, ?_, ?_⟩
  · intro tok s h
    refine ⟨keyFrameOf s.params (BitVec.ofNat 16 (32 + tok.toNat)), ?_, ?_, keyFrameOf_eq s.params (by omega)⟩
    · rw [← zext32_ofNat (by omega)]
      exact execKeyFrame_of_le s h
    · rw [keyFrameOf_eq s.params (by omega)]
      rfl
  · intro tok tok' s r r' h h' hexec hexec' j h8 h10 h11
    have hr := answerOnly_injective s (Host.Outcome.next.inj ((execKeyFrame_of_le s h).symm.trans hexec))
    have hr' := answerOnly_injective s (Host.Outcome.next.inj ((execKeyFrame_of_le s h').symm.trans hexec'))
    subst hr hr'
    exact getElem?_keyFrameOf_eq s.params (by omega) (by omega) h8 h10 h11
  · intro s hkey hcmd
    rw [← keyFrameOf_up hkey hcmd]
    exact execKeyFrame_of_le (tok := 11) s (by decide)

end Sys2Proof.Machine
end

section
/-! SUPPORT. The CRC16 generator (40_crc16.md R45 to R51): its operations' encodings, its value laws, and its requests
in a run. -/

open Sys2Proof.Stmt

namespace Sys2Proof

/-! ## The encoding of an operation without an immediate (R34) -/

theorem illegal_of_immField {w : Word}
    (hop : (opField w).toNat ∈ [0x01, 0x03, 0x04, 0x05, 0x10, 0x11, 0x12, 0x21, 0x30, 0x31])
    (h : immField w ≠ 0) : illegal w := by
  rw [toNat_opField] at hop
  refine .inr (.inr (.inl ⟨hop, fun h0 => h ?_⟩))
  rw [← BitVec.toNat_inj, toNat_immField, h0]
  rfl

/-- The encoding of an operation without an immediate follows from its opcode and its immediate. -/
theorem noImmEncoding_of {op : Byte} {i : Instr} (hop : i.opcode = op) (himm : i.imm = 0)
    (hnone : op.toNat ∈ [0x01, 0x03, 0x04, 0x05, 0x10, 0x11, 0x12, 0x21, 0x30, 0x31]) : noImmEncoding op i := by
  constructor
  · have hword : encode i = op.setWidth 32 := by
      rw [encode, packWord_eq_or, hop, himm]
      exact BitVec.or_zero
    rw [← hword]
    exact decode_encode i
  · rintro w rfl (h | h)
    · exact endsErrOp_of_illegal (illegal_of_immField hnone h)
    · exact endsErrOp_of_illegal (illegal_of_rsvField h)

end Sys2Proof

namespace Sys2Proof.Machine

/-! ## The buffer check (R32) -/

/-- Every operation that reads A is `withBuffer` of the rest of it. -/
theorem longBufferErrLen_of_readsBuffer {i : Instr} (h : readsBuffer i) : longBufferErrLen i := by
  intro s hlong
  rw [answerOnly_eq_respond]
  cases i
  case crc16 | crcFeed | xor | ksXor | frameEnc | frameDec | rsyncCheck | rsyncScan =>
    dsimp only [exec]
    exact withBuffer_of_lt (Nat.not_le.mp hlong)
  all_goals nomatch h

/-! ## The value of the CRC (R46, R47, R50) -/

/-- The final XOR value is 0, so a CRC is the register after the last byte. -/
theorem crc16From_eq_foldl (s : Bytes) (c : Half) : crc16From s c = s.foldl crcStep c :=
  BitVec.xor_zero

/-- The continuation law: a CRC of a concatenation goes on from the CRC of its first part. -/
theorem crc16From_append (s t : Bytes) (c : Half) : crc16From (s ++ t) c = crc16From t (crc16From s c) := by
  simp only [crc16From_eq_foldl, List.foldl_append]

/-- A zero byte leaves the register value 0 as it is: `CRC_TABLE[0] = 0`. -/
theorem crcStep_zero_zero : crcStep 0x0000 0x00 = 0x0000 := by decide

theorem crc16_zero_cons (s : Bytes) : crc16 (0x00 :: s) = crc16 s := by
  rw [crc16, crc16, crcInitValue, crc16From_cons, crcStep_zero_zero]

theorem crc16_replicate_zero_append (n : Nat) (s : Bytes) : crc16 (List.replicate n 0x00 ++ s) = crc16 s := by
  induction n with
  | zero => rfl
  | succ n ih => rw [List.replicate_succ, List.cons_append, crc16_zero_cons, ih]

theorem crc16_nil : crc16 [] = 0x0000 := crc16From_nil crcInitValue

theorem crc16_replicate_zero (n : Nat) : crc16 (List.replicate n 0x00) = 0x0000 := by
  rw [← List.append_nil (List.replicate n 0x00), crc16_replicate_zero_append, crc16_nil]

/-- The check value of R47. -/
theorem crc16_digitsMessage : crc16 digitsMessage = 0x31C3 := by decide

/-! ## The streaming requests in a run (R49 to R51) -/

section
variable {s : State} {a : Bytes} {rest : List HostEvent}

theorem run_crcInit (k : Nat) (h : requested s 0x00000003 a rest) :
    core.run (k + 1) s = core.run k (answer { s with inbox := rest } 0x0000 s.ksIdx { status := .ok }) :=
  run_request k h.1 h.2 (decode_encode .crcInit) rfl

theorem run_crcFeed (k : Nat) (h : requested s 0x00000004 a rest) (hlen : a.length ≤ s.params.maxBuf.toNat) :
    core.run (k + 1) s = core.run k (answer { s with inbox := rest } (crc16From a s.crcAcc) s.ksIdx
      { status := .ok, v0 := (crc16From a s.crcAcc).setWidth 32 }) :=
  run_request k h.1 h.2 (decode_encode .crcFeed) (execCrcFeed_of_le hlen)

theorem run_crcRead (k : Nat) (h : requested s 0x00000005 a rest) :
    core.run (k + 1) s = core.run k (answerOnly { s with inbox := rest }
      { status := .ok, v0 := s.crcAcc.setWidth 32 }) :=
  run_request k h.1 h.2 (decode_encode .crcRead) rfl

/-- `CRC_STREAM` and then CRC_READ: CRC_ACC ends as the CRC of the one buffer fed. -/
theorem run_crcStream_read {b c : Bytes}
    (h : requested s 0x00000003 b (.request 0x00000004 a :: .request 0x00000005 c :: rest))
    (hlen : a.length ≤ s.params.maxBuf.toNat) :
    core.run 3 s = .next (answer { s with inbox := rest } (crc16 a) s.ksIdx
      { status := .ok, v0 := (crc16 a).setWidth 32 }) :=
  ((run_crcInit 2 h).trans (run_crcFeed 1 ⟨rfl, h.2⟩ hlen)).trans (run_crcRead 0 ⟨rfl, h.2⟩)

end

/-! ## The requests -/

/-- Settles O9: its buffer check is `withBuffer`'s, and zero bytes do not move the register from 0. -/
theorem crc16Request : Obligations.Crc16Request :=
  ⟨noImmEncoding_of rfl rfl (by decide), longBufferErrLen_of_readsBuffer rfl, fun _ h => execCrc16_of_le h,
    crc16_nil, crc16_replicate_zero, crc16_replicate_zero_append, crc16_digitsMessage⟩

/-- Settles O10: the table is defined by R18's rule, so its entry is the byte-wise CRC. -/
theorem crcTblRequest : Obligations.CrcTblRequest :=
  ⟨byteEncoding_of (fun _ => rfl) (fun _ => rfl) (by decide), fun _ _ => rfl, by decide, by decide, by decide⟩

/-- Settles O11: a second CRC_INIT finds the state the first one left. -/
theorem crcInitRequest : Obligations.CrcInitRequest := by
  refine ⟨noImmEncoding_of rfl rfl (by decide), fun _ => rfl, ?_, rfl, ?_⟩
  · intro s t h
    obtain rfl := Host.Outcome.next.inj h
    rfl
  · intro s a b rest h
    exact ⟨_, (run_crcInit 1 h).trans (run_crcRead 0 ⟨rfl, h.2⟩), rfl⟩

/-- Settles O12: feeding s and then t is the continuation law. -/
theorem crcFeedRequest : Obligations.CrcFeedRequest :=
  ⟨noImmEncoding_of rfl rfl (by decide), longBufferErrLen_of_readsBuffer rfl, fun _ h => execCrcFeed_of_le h,
    crc16From_nil, fun s t c => (crc16From_append s t c).symm, fun _ => rfl, by decide, by decide, by decide⟩

/-- Settles O13: the run of CRC_STREAM's three requests ends with the check value in CRC_ACC. -/
theorem crcReadRequest : Obligations.CrcReadRequest := by
  refine ⟨noImmEncoding_of rfl rfl (by decide), fun _ => rfl, rfl, ?_⟩
  intro s b c rest hmax h
  have hrun := run_crcStream_read h hmax
  rw [crc16_digitsMessage] at hrun
  exact ⟨_, hrun, rfl⟩

end Sys2Proof.Machine
end

section
/-! SUPPORT. The XOR keystream cipher (41_cipher.md R53 to R59): its laws, its requests in a run, and its operations. -/

open Sys2Proof.Stmt

namespace Sys2Proof.Machine

/-! ## The keystream (R53) -/

/-- The keystream has period 16. -/
theorem keyByte_add_sixteen (key : Vector Byte 16) (j : Nat) : keyByte key (j + 16) = keyByte key j := by
  rw [← keyByte_mod, Nat.add_mod_right, keyByte_mod]

theorem keyByte_defaultKey_ne_zero (j : Nat) : keyByte defaultKey j ≠ 0x00 := by
  have h : ∀ i : Fin 16, keyByte defaultKey i ≠ 0x00 := by decide
  rw [← keyByte_mod]
  exact h ⟨j % 16, Nat.mod_lt _ (by decide)⟩

/-! ## The laws of the cipher (R56) -/

section
variable (key : Vector Byte 16) (s t : Bytes) (k0 : Nat)

@[simp] theorem getElem_xork {j : Nat} (h : j < (xork key s k0).length) :
    (xork key s k0)[j] = s[j]'(length_xork key s k0 ▸ h) ^^^ keyByte key (k0 + j) := by
  simp [xork]

/-- Ciphering twice from one start index combines each byte with its key byte twice. -/
theorem xork_xork : xork key (xork key s k0) k0 = s := by
  apply List.ext_getElem (by simp)
  intro j _ _
  rw [getElem_xork, getElem_xork, BitVec.xor_assoc, BitVec.xor_self, BitVec.xor_zero]

/-- The second part of a concatenation is ciphered from where the first part ends. -/
theorem xork_append : xork key (s ++ t) k0 = xork key s k0 ++ xork key t (k0 + s.length) := by
  simp [xork, List.mapIdx_append, Nat.add_assoc, Nat.add_comm s.length]

/-- What the cipher combined with byte j is its key byte. -/
theorem getD_xork_xor {j : Nat} {x : Byte} (h : s[j]? = some x) :
    (xork key s k0).getD j 0 ^^^ x = keyByte key (k0 + j) := by
  rw [List.getD_eq_getElem?_getD, getElem?_xork, h, Option.map_some, Option.getD_some, BitVec.xor_comm,
    ← BitVec.xor_assoc, BitVec.xor_self, BitVec.zero_xor]

/-- Ciphering zeros reads the keystream out. -/
theorem xork_replicate_zero (m : Nat) :
    xork key (List.replicate m 0x00) k0 = (List.range m).map fun j => keyByte key (k0 + j) := by
  apply List.ext_getElem (by simp)
  intro j _ _
  simp

/-- Byte by byte: `b ^^^ k = b` exactly for k = 0. -/
theorem xork_eq_self_iff : xork key s k0 = s ↔ ∀ j, j < s.length → keyByte key (k0 + j) = 0x00 := by
  simp [List.ext_getElem_iff]

end

/-- Settles O21: each law read off byte by byte, period 16 being the keystream's. -/
theorem cipherLaws : Obligations.CipherLaws := by
  refine ⟨fun key s k0 _ => xork_xork key s k0, ?_, ?_, ?_, fun key s k0 _ => xork_eq_self_iff key s k0,
    keyByte_defaultKey_ne_zero⟩
  · intro key s k0 j x y _ hx hy
    rw [getD_xork_xor key s k0 hx, getD_xork_xor key s k0 hy, ← Nat.add_assoc, keyByte_add_sixteen]
  · intro key s t k0 _
    rw [xork_mod, xork_append]
  · intro key m
    simp only [xork_replicate_zero, Nat.zero_add]

/-! ## The register KS_IDX (10_state.md R14) -/

@[simp] theorem toNat_ksAdvance (k : BitVec 4) (n : Nat) : (ksAdvance k n).toNat = (k.toNat + n) % 16 := by
  simp [ksAdvance]

/-- Whole rounds of the key leave the index where it is. -/
theorem ksAdvance_of_dvd {k : BitVec 4} {n : Nat} (h : 16 ∣ n) : ksAdvance k n = k := by
  apply BitVec.eq_of_toNat_eq
  have hk := k.isLt
  rw [toNat_ksAdvance]
  omega

/-- KS_IDX carries the start index from one part of a concatenation to the next. -/
theorem xork_append_ksAdvance (key : Vector Byte 16) (x y : Bytes) (k : BitVec 4) :
    xork key (x ++ y) k.toNat = xork key x k.toNat ++ xork key y (ksAdvance k x.length).toNat := by
  rw [toNat_ksAdvance, xork_mod, xork_append]

/-! ## The streaming requests in a run (R58, R59) -/

section
variable {s : State} {a : Bytes} {rest : List HostEvent}

/-- The step of a request is its operation on its buffer. -/
theorem step_of_requested {t : State} {w : Word} {i : Instr} (h : requested s w a rest) (hd : decode w = .ok i)
    (he : exec i { s with inbox := rest, inA := a } = .next t) : step s = .next t := by
  rw [step_request h.1 h.2, runRequest_ok hd]
  exact he

theorem step_ksInit (h : requested s 0x00000011 a rest) :
    step s = .next (answer { s with inbox := rest } s.crcAcc 0 { status := .ok }) :=
  step_of_requested h (decode_encode .ksInit) rfl

theorem step_ksXor (h : requested s 0x00000012 a rest) (hlen : a.length ≤ s.params.maxBuf.toNat) :
    step s = .next (answer { s with inbox := rest } s.crcAcc (ksAdvance s.ksIdx a.length)
      { status := .ok, out := xork s.params.key a s.ksIdx.toNat }) :=
  step_of_requested h (decode_encode .ksXor) (execKsXor_of_le hlen)

/-- KS_INIT and then KS_XOR: the buffer is ciphered from key index 0. -/
theorem run_ksInit_ksXor {b : Bytes} (h : requested s 0x00000011 b (.request 0x00000012 a :: rest))
    (hlen : a.length ≤ s.params.maxBuf.toNat) :
    core.run 2 s = .next (answer { s with inbox := rest } s.crcAcc (ksAdvance 0 a.length)
      { status := .ok, out := xork s.params.key a 0 }) :=
  (run_succ 1 (step_ksInit h)).trans (run_succ 0 (step_ksXor ⟨rfl, h.2⟩ hlen))

end

/-! ## The requests -/

/-- Settles O18: XOR of its output is the involution. -/
theorem xorRequest : Obligations.XorRequest := by
  refine ⟨noImmEncoding_of rfl rfl (by decide), longBufferErrLen_of_readsBuffer rfl, ?_⟩
  intro s hread
  refine ⟨xork s.params.key s.inA 0, execXor_of_le hread, length_xork .., ?_, ?_, ?_⟩
  · intro j
    rw [getElem?_xork, Nat.zero_add]
    rfl
  · have hagain := execXor_of_le (s := { s with inA := xork s.params.key s.inA 0 }) ((length_xork ..).trans_le hread)
    rw [xork_xork] at hagain
    exact hagain
  · intro hkey hA
    rw [hkey, hA]
    decide

/-- Settles O19: a second KS_INIT finds the state the first one left. -/
theorem ksInitRequest : Obligations.KsInitRequest := by
  refine ⟨noImmEncoding_of rfl rfl (by decide), fun _ => rfl, ?_, rfl, ?_⟩
  · intro s t h
    obtain rfl := Host.Outcome.next.inj h
    rfl
  · intro s b rest hmax hkey h
    have hrun := run_ksInit_ksXor h hmax
    rw [hkey] at hrun
    exact ⟨_, hrun, rfl⟩

/-- Settles O20: KS_XOR of y after x goes on in the keystream where x ended, which is the splitting law. -/
theorem ksXorRequest : Obligations.KsXorRequest := by
  refine ⟨noImmEncoding_of rfl rfl (by decide), longBufferErrLen_of_readsBuffer rfl, ?_, ?_, ?_⟩
  · intro s hread
    refine ⟨_, _, execKsXor_of_le hread, length_xork .., fun _ => getElem?_xork .., toNat_ksAdvance .., ?_,
      ksAdvance_of_dvd⟩
    intro hA
    rw [hA]
    exact ⟨xork_nil .., ksAdvance_of_dvd (dvd_zero 16)⟩
  · intro s b x y rest hx hy h
    refine ⟨_, _, _, _, run_ksInit_ksXor h hx, rfl, step_ksXor ⟨rfl, h.2⟩ hy, rfl, ?_⟩
    exact (xork_append_ksAdvance s.params.key x y 0).symm
  · intro s b rest hmax hkey h
    have hfirst : xork s.params.key [0x34, 0x12, 0x01] 0 = [0x22, 0x7E, 0x15] := by rw [hkey]; decide
    have hsecond : xork s.params.key [0x00, 0x01, 0x36, 0x54] 3 = [0xE6, 0x2F, 0xA7, 0x59] := by rw [hkey]; decide
    have hrun := run_ksInit_ksXor h (Nat.le_of_succ_le hmax)
    rw [hfirst] at hrun
    refine ⟨_, _, hrun, rfl, rfl, step_ksXor ⟨rfl, h.2⟩ hmax, ?_, rfl⟩
    rw [← hsecond]
    rfl

end Sys2Proof.Machine
end

section
/-! SUPPORT. The frame codec (42_frame_codec.md R60 to R66): what FRAME_ENC answers, when FRAME_DEC's check passes, and
what a frame deciphers to. -/

open Sys2Proof.Stmt

namespace Sys2Proof

/-! ## The encoding of an operation with a 16-bit operand (R34) -/

/-- The encoding of an operation with a 16-bit operand follows from its opcode and its immediate. -/
theorem halfEncoding_of {op : Byte} {i : Half → Instr} (hop : ∀ v, (i v).opcode = op) (himm : ∀ v, (i v).imm = v) :
    halfEncoding op i := by
  constructor
  · intro v
    have hword : encode (i v) = op.setWidth 32 ||| (v.setWidth 32 <<< 8) := by
      rw [encode, packWord_eq_or, hop, himm]
    rw [← hword]
    exact decode_encode (i v)
  · rintro w - h
    exact endsErrOp_of_illegal (illegal_of_rsvField h)

end Sys2Proof

namespace Sys2Proof.Machine

/-! ## Encode (R60, R61) -/

/-- `|OUT| = |A| + 12`. -/
theorem length_frameEncode (key : Vector Byte 16) (t : Half) (b : Bytes) :
    (frameEncode key t b).length = b.length + 12 := by
  rw [frameEncode, length_frameAround, length_innerBlock]

/-- A body over 65531 bytes ends with ERR_LEN, whether or not `P_MAX_BUF` admits it. -/
theorem execFrameEnc_of_maxBody_lt {s : State} (t : Half) (h : maxBody < s.inA.length) :
    execFrameEnc t s = .next (respond { status := .errLen } s) := by
  rcases Nat.lt_or_ge s.params.maxBuf.toNat s.inA.length with hlong | hread
  · exact withBuffer_of_lt hlong
  · rw [execFrameEnc, withBuffer_of_le hread, if_pos h]
    rfl

/-! ## The check (R62) -/

section
variable {r : Bytes}

theorem lengthField_eq_rd16 (r : Bytes) : lengthField r = (rd16 r 2).toNat := (rd16_toNat r 2).symm

/-- The model's marker test: two bytes at each end, and room for both. -/
theorem bothMarkers_iff_slices :
    bothMarkers r ↔ 4 ≤ r.length ∧ slice r 0 2 = markLead ∧ slice r (r.length - 2) r.length = markTrail := by
  constructor
  · rintro ⟨mid, rfl⟩
    refine ⟨by simp, rfl, ?_⟩
    rw [slice_all, List.drop_left']
    · rfl
    · simp
  · rintro ⟨hlen, hlead, htrail⟩
    refine ⟨(r.drop 2).take (r.length - 4), ?_⟩
    have hhead : r.take 2 = markLead := hlead
    have hlast : (r.drop 2).drop (r.length - 4) = markTrail := by
      rw [List.drop_drop, show 2 + (r.length - 4) = r.length - 2 by omega, ← slice_all, htrail]
    calc r = r.take 2 ++ ((r.drop 2).take (r.length - 4) ++ (r.drop 2).drop (r.length - 4)) := by
          rw [List.take_append_drop, List.take_append_drop]
      _ = [0xAB, 0xCD] ++ (r.drop 2).take (r.length - 4) ++ [0xDC, 0xBA] := by
          rw [hhead, hlast, List.append_assoc]; rfl

theorem frameCheck_of_not_bothMarkers (h : ¬ bothMarkers r) : frameCheck r = .error .marker := by
  refine if_pos ?_
  rw [bothMarkers_iff_slices, not_and_or, not_and_or, Nat.not_le] at h
  exact h

/-- Behind the markers the check is about lengths alone. -/
theorem frameCheck_of_bothMarkers (h : bothMarkers r) :
    frameCheck r = if r.length < 8 ∨ lengthField r + 8 ≠ r.length ∨ lengthField r < 4 then .error .length
      else .ok (lengthField r) := by
  obtain ⟨hlen, hlead, htrail⟩ := bothMarkers_iff_slices.mp h
  have hmark : ¬ (r.length < 4 ∨ slice r 0 2 ≠ markLead ∨ slice r (r.length - 2) r.length ≠ markTrail) := by
    simp [hlead, htrail, hlen]
  unfold frameCheck
  rw [if_neg hmark, ← lengthField_eq_rd16]
  by_cases h8 : r.length < 8 <;> simp [h8]

theorem frameCheck_of_lengthField (h : bothMarkers r) (hlen : lengthField r + 8 = r.length) (hmin : 4 ≤ lengthField r) :
    frameCheck r = .ok (lengthField r) := by
  rw [frameCheck_of_bothMarkers h, if_neg (by omega)]

end

/-! ## The response of a decode (R63, R64) -/

theorem getLsbD_zero_decodeFlags (crcOk blenOk : Bool) : (decodeFlags crcOk blenOk).getLsbD 0 = crcOk := by
  revert crcOk blenOk; decide

theorem getLsbD_one_decodeFlags (crcOk blenOk : Bool) : (decodeFlags crcOk blenOk).getLsbD 1 = blenOk := by
  revert crcOk blenOk; decide

theorem toNat_decodeFlags_lt (crcOk blenOk : Bool) : (decodeFlags crcOk blenOk).toNat < 4 := by
  revert crcOk blenOk; decide

theorem toNat_zext32 (v : Half) : (zext32 v).toNat = v.toNat :=
  BitVec.toNat_setWidth_of_le (by decide)

theorem zext32_inj {v w : Half} : zext32 v = zext32 w ↔ v = w := by
  rw [← BitVec.toNat_inj, toNat_zext32, toNat_zext32, BitVec.toNat_inj]

/-! ## A raw frame byte by byte (R55, R63) -/

section
variable (s : State)

theorem getD_plainInner {n j : Nat} (h : j < n) : (plainInner s n).getD j 0 = plainAt s j := by
  simp [plainInner, h]

theorem slice_plainInner {m n : Nat} (h : m ≤ n) : slice (plainInner s n) 0 m = plainInner s m := by
  simp [slice, plainInner, ← List.map_take, List.take_range, h]

theorem length_plainInner (n : Nat) : (plainInner s n).length = n := by
  simp [plainInner]

theorem rd16_plainInner {n j : Nat} (h : j + 1 < n) :
    (rd16 (plainInner s n) j).toNat = (plainAt s j).toNat + 256 * (plainAt s (j + 1)).toNat := by
  rw [rd16_toNat, getD_plainInner s (by omega), getD_plainInner s h]

/-- The plaintext of a buffer whose length is 8 over n: the inner block of n bytes and the two bytes of the CRC. -/
theorem framePlain_eq_plainInner {n : Nat} (h : n + 8 = s.inA.length) :
    framePlain s.params.key s.inA = plainInner s (n + 2) := by
  apply List.ext_getElem
  · rw [framePlain, length_xork, length_slice, length_plainInner]
    omega
  · intro j hj _
    have hbyte : 4 + j < s.inA.length := by
      rw [framePlain, length_xork, length_slice] at hj
      omega
    simp [framePlain, slice, plainInner, plainAt, keyAt, keyByte, hbyte]

end

/-! ## A built frame (R36, R60) -/

theorem toNat_len16 {n : Nat} (h : n < 65536) : (len16 n).toNat = n :=
  (BitVec.toNat_ofNat ..).trans (Nat.mod_eq_of_lt h)

section
variable (key : Vector Byte 16) (inner : Bytes)

theorem bothMarkers_frameAround : bothMarkers (frameAround key inner) :=
  ⟨le16 (len16 inner.length) ++ xork key (inner ++ le16 (crc16 inner)) 0, by
    simp [frameAround, markLead, markTrail]⟩

theorem lengthField_frameAround {inner : Bytes} (h : inner.length < 65536) :
    lengthField (frameAround key inner) = inner.length := by
  have hfield : rd16 (frameAround key inner) 2 = len16 inner.length := by
    rw [frameAround, List.append_assoc, List.append_assoc]
    exact (rd16_append markLead _ 0).trans (rd16_le16 _ _)
  rw [lengthField_eq_rd16, hfield, toNat_len16 h]

theorem frameCheck_frameAround {inner : Bytes} (hmin : 4 ≤ inner.length) (hmax : inner.length < 65536) :
    frameCheck (frameAround key inner) = .ok inner.length := by
  have hfield := lengthField_frameAround key hmax
  rw [frameCheck_of_lengthField (bothMarkers_frameAround key inner) (by rw [hfield, length_frameAround])
    (hfield ▸ hmin), hfield]

/-- The cipher is its own inverse, so the ciphered part gives back the inner block and its CRC. -/
theorem framePlain_frameAround : framePlain key (frameAround key inner) = inner ++ le16 (crc16 inner) := by
  have hmiddle : slice (frameAround key inner) 4 ((frameAround key inner).length - 2) =
      xork key (inner ++ le16 (crc16 inner)) 0 := by
    have hend : inner.length + 8 - 2 = 4 + (xork key (inner ++ le16 (crc16 inner)) 0).length := by
      rw [length_xork, List.length_append, length_le16]
      omega
    rw [length_frameAround, hend]
    exact slice_middle (markLead ++ le16 (len16 inner.length)) _ markTrail
  rw [framePlain, hmiddle, xork_xork]

end

section
variable (t : Half) (b : Bytes)

theorem rd16_innerBlock_commandType : rd16 (innerBlock t b) 0 = t := by
  rw [innerBlock, List.append_assoc, rd16_le16]

theorem rd16_innerBlock_bodyLength : rd16 (innerBlock t b) 2 = len16 b.length := by
  rw [innerBlock, List.append_assoc]
  exact (rd16_append (le16 t) _ 0).trans (rd16_le16 _ _)

theorem slice_innerBlock_body : slice (innerBlock t b) 4 (innerBlock t b).length = b := by
  rw [slice_all, innerBlock_eq]
  rfl

/-- R65 on the plaintext: an inner block followed by its own CRC. -/
theorem decodedResponse_innerBlock {b : Bytes} (h : b.length ≤ 65531) :
    decodedResponse (innerBlock t b ++ le16 (crc16 (innerBlock t b))) (innerBlock t b).length =
      { status := .ok
        flags := 0x03
        v0 := zext32 t
        v1 := zext32 (crc16 (innerBlock t b))
        v2 := zext32 (crc16 (innerBlock t b))
        v3 := BitVec.ofNat 32 b.length
        out := b } := by
  have hinner (c : Half) : slice (innerBlock t b ++ le16 c) 0 (innerBlock t b).length = innerBlock t b := by
    rw [slice_append_left le_rfl, slice_all, List.drop_zero]
  have hcrc (c : Half) : rd16 (innerBlock t b ++ le16 c) (innerBlock t b).length = c :=
    (rd16_append (innerBlock t b) (le16 c) 0).trans (rd16_le16 c [])
  have hblen : (len16 b.length).toNat = (innerBlock t b).length - 4 := by
    rw [length_innerBlock, Nat.add_sub_cancel, toNat_len16 (by omega)]
  have hv3 : zext32 (len16 b.length) = BitVec.ofNat 32 b.length := zext32_ofNat (by omega)
  simp only [decodedResponse, hinner, hcrc, rd16_innerBlock_commandType, rd16_innerBlock_bodyLength,
    slice_innerBlock_body, hblen, hv3, beq_self_eq_true]
  rfl

end

/-! ## The requests -/

/-- Settles O27: the built frame passes the check, deciphers to its inner block and CRC, and these decode to the body. -/
theorem frameRoundTrip : Obligations.FrameRoundTrip := by
  intro ct s u hread hbody hmax hparams
  refine ⟨_, execFrameEnc_of_le ct hread hbody, rfl, fun hA => ?_⟩
  have hframe : u.inA = frameAround u.params.key (innerBlock ct s.inA) := by rw [hA, hparams]; rfl
  have hfits : u.inA.length ≤ u.params.maxBuf.toNat := by
    rw [hframe, length_frameAround, length_innerBlock, hparams]
    exact hmax
  have hlen := length_innerBlock ct s.inA
  have hcheck : frameCheck u.inA = .ok (innerBlock ct s.inA).length := by
    rw [hframe]
    exact frameCheck_frameAround _ (by omega) (by omega)
  have hdec := execFrameDec_of_ok hfits hcheck
  rw [hframe, framePlain_frameAround, decodedResponse_innerBlock ct hbody] at hdec
  exact hdec

/-- Settles O23: the two length limits are the two branches before the frame. -/
theorem frameEncRequest : Obligations.FrameEncRequest := by
  refine ⟨halfEncoding_of (fun _ => rfl) (fun _ => rfl), fun _ => longBufferErrLen_of_readsBuffer rfl,
    fun ct _ h => execFrameEnc_of_maxBody_lt ct h, ?_, ?_, by decide⟩
  · intro ct s hread hbody
    have henc := execFrameEnc_of_le ct hread hbody
    rw [length_innerBlock] at henc
    exact ⟨henc, length_frameEncode ..⟩
  · intro s hread hkey hA
    have hlen : s.inA.length ≤ maxBody := by rw [hA]; decide
    have hframe : frameEncode defaultKey 0x1234 [0x01] = frameFC1 := by decide
    have hcrc : crc16 (innerBlock 0x1234 [0x01]) = 0x5436 := by decide
    have henc := execFrameEnc_of_le 0x1234 hread hlen
    rw [hkey, hA, hframe, hcrc] at henc
    exact henc

/-- Settles O25: MARKER is the check's first branch, and behind it the length rules decide. -/
theorem frameDecChecks : Obligations.FrameDecChecks := by
  refine ⟨noImmEncoding_of rfl rfl (by decide), longBufferErrLen_of_readsBuffer rfl, ?_, ?_, ?_⟩
  · intro s hread hmark
    exact execFrameDec_of_error hread (frameCheck_of_not_bothMarkers hmark)
  · intro s hread hmark hbad
    have hcheck := frameCheck_of_bothMarkers hmark
    rw [if_pos hbad] at hcheck
    exact execFrameDec_of_error hread hcheck
  · intro s hread hmark _ hlen hmin
    exact ⟨_, execFrameDec_of_ok hread (frameCheck_of_lengthField hmark hlen hmin), rfl⟩

/-- Settles O26: the plaintext is the deciphered bytes 0 to L + 1, and each field is read from it. -/
theorem frameDecDecodes : Obligations.FrameDecDecodes := by
  intro s hread hmark hlen hmin
  refine ⟨_, execFrameDec_of_ok hread (frameCheck_of_lengthField hmark hlen hmin), ?_⟩
  rw [framePlain_eq_plainInner s hlen]
  generalize lengthField s.inA = n at hmin
  have hblock : slice (plainInner s (n + 2)) 0 n = plainInner s n := slice_plainInner s (by omega)
  have hbody : slice (plainInner s n) 4 n = (plainInner s n).drop 4 := by
    rw [← slice_all, length_plainInner]
  simp only [decodedResponse, hblock, hbody, getLsbD_zero_decodeFlags, getLsbD_one_decodeFlags, toNat_zext32,
    zext32_inj, beq_iff_eq]
  exact ⟨trivial, rd16_plainInner s (by omega), rd16_plainInner s (by omega), rfl, rd16_plainInner s (by omega), trivial,
    trivial, trivial, toNat_decodeFlags_lt ..⟩

end Sys2Proof.Machine
end

section
/-! SUPPORT. The link resynchronizer (43_resync.md R67, R68, R71, R72): what the framed test and the scan say of the
markers in the buffer. -/

open Sys2Proof.Stmt

namespace Sys2Proof.Machine

/-! ## A marker in a buffer (10_state.md R21) -/

/-- The marker of the bytes x and y stands at index i. -/
def pairAt (x y : Byte) (s : Bytes) (i : Nat) : Prop := s[i]? = some x ∧ s[i + 1]? = some y

section
variable {x y b : Byte} {s a : Bytes} {i j k d n : Nat} {r : Bytes} {mode : ScanMode}

theorem trailAt_iff_pairAt : trailAt a i ↔ pairAt 0xDC 0xBA a i := Iff.rfl

@[simp] theorem not_pairAt_nil : ¬ pairAt x y [] i := by simp [pairAt]

@[simp] theorem pairAt_cons_succ : pairAt x y (b :: s) (i + 1) ↔ pairAt x y s i := Iff.rfl

/-- The test of the model's searches. -/
theorem pairAt_zero_iff_take : pairAt x y (b :: s) 0 ↔ (b :: s).take 2 = [x, y] := by
  cases s <;> simp [pairAt]

theorem trailAt_drop : trailAt (a.drop i) d ↔ trailAt a (i + d) := by
  simp only [trailAt, List.getElem?_drop, Nat.add_assoc]

theorem forall_not_pairAt_cons :
    (∀ i, ¬ pairAt x y (b :: s) i) ↔ ¬ pairAt x y (b :: s) 0 ∧ ∀ i, ¬ pairAt x y s i :=
  Nat.and_forall_add_one.symm

/-! ## The searches -/

theorem firstMark_cons_of_pairAt (h : pairAt x y (b :: s) 0) : firstMark [x, y] (b :: s) = some 0 :=
  if_pos (pairAt_zero_iff_take.mp h)

theorem firstMark_cons_of_not_pairAt (h : ¬ pairAt x y (b :: s) 0) :
    firstMark [x, y] (b :: s) = (firstMark [x, y] s).map (· + 1) :=
  if_neg (mt pairAt_zero_iff_take.mpr h)

theorem firstMark_eq_none_iff : firstMark [x, y] s = none ↔ ∀ i, ¬ pairAt x y s i := by
  induction s with
  | nil => simp [firstMark]
  | cons b s ih =>
    rw [forall_not_pairAt_cons, ← ih]
    by_cases h0 : pairAt x y (b :: s) 0
    · simp [firstMark_cons_of_pairAt, h0]
    · simp [firstMark_cons_of_not_pairAt, h0]

/-- The first marker is the one with none before it. -/
theorem firstMark_eq_some_iff :
    firstMark [x, y] s = some i ↔ pairAt x y s i ∧ ∀ i', i' < i → ¬ pairAt x y s i' := by
  induction s generalizing i with
  | nil => simp [firstMark]
  | cons b s ih =>
    cases i with
    | zero =>
      by_cases h0 : pairAt x y (b :: s) 0
      · simp [firstMark_cons_of_pairAt, h0]
      · simp [firstMark_cons_of_not_pairAt, h0]
    | succ i =>
      rw [Nat.forall_lt_succ_left]
      by_cases h0 : pairAt x y (b :: s) 0
      · simp [firstMark_cons_of_pairAt, h0]
      · simp [firstMark_cons_of_not_pairAt, h0, ih]

theorem lastMark_eq_none_iff : lastMark [x, y] s = none ↔ ∀ i, ¬ pairAt x y s i := by
  induction s with
  | nil => simp [lastMark]
  | cons b s ih =>
    rw [forall_not_pairAt_cons, ← ih, lastMark, pairAt_zero_iff_take]
    cases lastMark [x, y] s <;> simp

theorem forall_lt_not_pairAt_cons_zero :
    (∀ i, 0 < i → ¬ pairAt x y (b :: s) i) ↔ ∀ i, ¬ pairAt x y s i :=
  ⟨fun h i => h (i + 1) i.succ_pos, fun h i hi => Nat.sub_add_cancel hi ▸ h (i - 1)⟩

theorem forall_lt_not_pairAt_cons_succ :
    (∀ i, j + 1 < i → ¬ pairAt x y (b :: s) i) ↔ ∀ i, j < i → ¬ pairAt x y s i := by
  rw [← Nat.and_forall_add_one]
  simp

/-- The last marker is the one with none after it. -/
theorem lastMark_eq_some_iff :
    lastMark [x, y] s = some i ↔ pairAt x y s i ∧ ∀ i', i < i' → ¬ pairAt x y s i' := by
  induction s generalizing i with
  | nil => simp [lastMark]
  | cons b s ih =>
    rw [lastMark]
    cases i with
    | zero =>
      rw [forall_lt_not_pairAt_cons_zero, ← lastMark_eq_none_iff, pairAt_zero_iff_take]
      cases lastMark [x, y] s <;> simp
    | succ i =>
      rw [pairAt_cons_succ, forall_lt_not_pairAt_cons_succ, ← ih]
      cases lastMark [x, y] s <;> simp

/-! ## The scan (R68) -/

/-- From k on, the trailing marker at index j is the one that closes a range: the first one there, or the last under the
longest scan. -/
def closesAt (mode : ScanMode) (a : Bytes) (k j : Nat) : Prop :=
  k ≤ j ∧ trailAt a j ∧ (mode = .shortest → ∀ j', k ≤ j' → j' < j → ¬ trailAt a j') ∧
    (mode = .longest → ∀ j', j < j' → ¬ trailAt a j')

theorem closingMark_drop_eq_some_iff : closingMark mode (a.drop k) = some d ↔ closesAt mode a k (k + d) := by
  cases mode with
  | shortest =>
    have hfirst : (∀ d', d' < d → ¬ trailAt a (k + d')) ↔ ∀ j, k ≤ j → j < k + d → ¬ trailAt a j := by
      refine ⟨fun h j hk hj => ?_, fun h d' hd => h (k + d') (Nat.le_add_right ..) (Nat.add_lt_add_left hd k)⟩
      obtain ⟨d', rfl⟩ := Nat.exists_eq_add_of_le hk
      exact h d' (Nat.lt_of_add_lt_add_left hj)
    refine firstMark_eq_some_iff.trans ?_
    simp only [← trailAt_iff_pairAt, trailAt_drop, hfirst]
    simp [closesAt]
  | longest =>
    have hlast : (∀ d', d < d' → ¬ trailAt a (k + d')) ↔ ∀ j, k + d < j → ¬ trailAt a j := by
      refine ⟨fun h j hj => ?_, fun h d' hd => h (k + d') (Nat.add_lt_add_left hd k)⟩
      obtain ⟨d', rfl⟩ := Nat.exists_eq_add_of_le (Nat.le_of_add_right_le hj.le)
      exact h d' (Nat.lt_of_add_lt_add_left hj)
    refine lastMark_eq_some_iff.trans ?_
    simp only [← trailAt_iff_pairAt, trailAt_drop, hlast]
    simp [closesAt]

theorem closingMark_eq_none_iff : closingMark mode s = none ↔ ∀ d, ¬ trailAt s d := by
  cases mode with
  | shortest => exact firstMark_eq_none_iff
  | longest => exact lastMark_eq_none_iff

theorem firstMark_lead_eq_some_iff :
    firstMark markLead a = some i ↔ leadAt a i ∧ ∀ i', i' < i → ¬ leadAt a i' := firstMark_eq_some_iff

/-- A range is found from the leftmost leading marker to the marker that closes it. -/
theorem scan_eq_found_iff : scan mode a = .found i n r ↔
    leadAt a i ∧ (∀ i', i' < i → ¬ leadAt a i') ∧
      ∃ j, closesAt mode a (i + 2) j ∧ n = j + 2 - i ∧ r = slice a i (j + 2) := by
  rw [← and_assoc, ← firstMark_lead_eq_some_iff]
  constructor
  · intro h
    rw [scan] at h
    split at h
    · cases h
    next i' hsome =>
      split at h
      · cases h
      next d hclose =>
        cases h
        exact ⟨hsome, _, closingMark_drop_eq_some_iff.mp hclose, rfl, rfl⟩
  · rintro ⟨hsome, j, hclose, rfl, rfl⟩
    obtain ⟨d, rfl⟩ := Nat.exists_eq_add_of_le hclose.1
    simp [scan, hsome, closingMark_drop_eq_some_iff.mpr hclose]

/-- If the leftmost leading marker has no trailing marker after it, no later leading marker has one either (R68). -/
theorem hasMarkedRange_iff_trailAt (hlead : leadAt a i) (hleft : ∀ i', i' < i → ¬ leadAt a i') :
    hasMarkedRange a ↔ ∃ d, trailAt (a.drop (i + 2)) d := by
  constructor
  · rintro ⟨i', j, hlead', hj, htrail⟩
    have hi : i ≤ i' := Nat.le_of_not_lt fun h => hleft i' h hlead'
    refine ⟨j - (i + 2), trailAt_drop.mpr ?_⟩
    rwa [Nat.add_sub_cancel' (by omega)]
  · rintro ⟨d, htrail⟩
    exact ⟨i, i + 2 + d, hlead, Nat.le_add_right .., trailAt_drop.mp htrail⟩

/-- Not found, in either mode, is a buffer without a range. -/
theorem scan_eq_notFound_iff : scan mode a = .notFound ↔ ¬ hasMarkedRange a := by
  rw [scan]
  split
  next hnone =>
    exact iff_of_true rfl fun ⟨i, _, hlead, _⟩ => firstMark_eq_none_iff.mp hnone i hlead
  next i hsome =>
    obtain ⟨hlead, hleft⟩ := firstMark_lead_eq_some_iff.mp hsome
    rw [hasMarkedRange_iff_trailAt hlead hleft, not_exists, ← closingMark_eq_none_iff (mode := mode)]
    cases closingMark mode (a.drop (i + 2)) <;> simp

end

/-! ## The requests -/

theorem framed_eq_true_iff {a : Bytes} : framed a = true ↔ bothMarkers a :=
  decide_eq_true_iff.trans bothMarkers_iff_slices.symm

/-- Settles O31: the model's framed test is the two markers' places, and its flag is bit 0. -/
theorem rsyncCheckRequest : Obligations.RsyncCheckRequest := by
  refine ⟨noImmEncoding_of rfl rfl (by decide), longBufferErrLen_of_readsBuffer rfl, ?_, ?_⟩
  · intro s hread hmark
    have hcheck := execRsyncCheck_of_le hread
    rw [framed_eq_true_iff.mpr hmark] at hcheck
    exact hcheck
  · intro s hread hmark
    have hcheck := execRsyncCheck_of_le hread
    rw [Bool.eq_false_iff.mpr (mt framed_eq_true_iff.mp hmark)] at hcheck
    exact hcheck

/-- Settles O32: the markers the statement names are the ones the two searches stop at. -/
theorem rsyncScanRequest : Obligations.RsyncScanRequest := by
  refine ⟨noImmEncoding_of rfl rfl (by decide), longBufferErrLen_of_readsBuffer rfl, ?_, ?_⟩
  · intro s i j hread hlead hleft hj htrail hfirst hlast
    exact execRsyncScan_of_found hread
      (scan_eq_found_iff.mpr ⟨hlead, hleft, j, ⟨hj, htrail, hfirst, hlast⟩, rfl, rfl⟩)
  · intro s hread hnone
    exact execRsyncScan_of_notFound hread
      (scan_eq_notFound_iff.mpr fun ⟨i, j, hlead, hj, htrail⟩ => hnone i j hlead hj htrail)

end Sys2Proof.Machine
end

section
/-! SUPPORT. The keycodes (44_keypress.md R74, R76, R78): what KEYCODE and KEY_FRAME_CODE answer within and beyond their
range. -/

open Sys2Proof.Stmt

namespace Sys2Proof.Machine

theorem execKeycode_of_le {tok : Byte} (s : State) (h : tok.toNat ≤ 18) :
    execKeycode tok s = .next (respond { status := .ok, v0 := BitVec.ofNat 32 (32 + tok.toNat) } s) := by
  simp only [execKeycode, keycodeOf_of_le h, complete_eq, zext32_ofNat (show 32 + tok.toNat < 65536 by omega)]

theorem execKeycode_of_lt {tok : Byte} (s : State) (h : 18 < tok.toNat) :
    execKeycode tok s = .next (respond { status := .errKey } s) := by
  simp only [execKeycode, keycodeOf_of_lt h, raise_eq]

theorem execKeyFrameCode_of_le_of_le {code : Half} (s : State) (hlow : 32 ≤ code.toNat) (hhigh : code.toNat ≤ 50) :
    execKeyFrameCode code s = .next (respond (keyFrameResponse s.params code) s) := by
  rw [execKeyFrameCode, if_neg (by omega), complete_eq]

theorem execKeyFrameCode_of_lt_or_lt {code : Half} (s : State) (h : code.toNat < 32 ∨ 50 < code.toNat) :
    execKeyFrameCode code s = .next (respond { status := .errKey } s) := by
  rw [execKeyFrameCode, if_pos h, raise_eq]

/-- R78: the keycode of a token is one of the 19 that KEY_FRAME_CODE takes, and it then builds the token's frame. -/
theorem execKeyFrameCode_eq_execKeyFrame {tok : Byte} (s : State) (h : tok.toNat ≤ 18) :
    execKeyFrameCode (BitVec.ofNat 16 (32 + tok.toNat)) s = execKeyFrame tok s := by
  have hcode : (BitVec.ofNat 16 (32 + tok.toNat)).toNat = 32 + tok.toNat := by
    rw [BitVec.toNat_ofNat]
    omega
  rw [execKeyFrameCode_of_le_of_le s (by omega) (by omega), execKeyFrame_of_le s h]

/-- Settles O36: the tokens with a keycode are 0 to 18, and its 16 bits widen to V0 without loss. -/
theorem keycodeRequest : Obligations.KeycodeRequest :=
  ⟨byteEncoding_of (fun _ => rfl) (fun _ => rfl) (by decide), fun _ s h => execKeycode_of_le s h,
    fun _ s h => execKeycode_of_lt s h⟩

/-- Settles O38: the range 32 to 50 is the operation's one check, and the keycode of every token passes it. -/
theorem keyFrameCodeRequest : Obligations.KeyFrameCodeRequest :=
  ⟨halfEncoding_of (fun _ => rfl) (fun _ => rfl), fun _ s h => execKeyFrameCode_of_lt_or_lt s h,
    fun _ s hlow hhigh => execKeyFrameCode_of_le_of_le s hlow hhigh, fun _ s h => execKeyFrameCode_eq_execKeyFrame s h⟩

end Sys2Proof.Machine
end

section
/-! SUPPORT. How a request ends (60_exceptions.md R81, R82): it completes without an error or raises one. -/

open Sys2Proof.Stmt

namespace Sys2Proof.Machine

variable {s : State}

/-! ## What a raise may report -/

/-- The infos that `raise` is given for a status (R81): the reason of a FRAME_ERR, and 0 for every other error. -/
def Status.Reports (st : Status) (info : Word) : Prop :=
  (st ≠ .frameErr → info = 0) ∧ (st = .frameErr → info = 1 ∨ info = 2)

theorem Status.reports_zero {st : Status} (h : st ≠ .frameErr) : st.Reports 0 :=
  ⟨fun _ => rfl, fun h' => absurd h' h⟩

theorem Status.reports_frameReason (e : FrameReason) : Status.frameErr.Reports e.code := by
  refine ⟨fun h => absurd rfl h, fun _ => ?_⟩
  cases e with
  | marker => exact .inl rfl
  | length => exact .inr rfl

/-! ## The two ends of a request -/

/-- The end x of a request issued in state s. Only a request that completes may have changed the state it answers from. -/
inductive RequestEnd (s : State) : Result → Prop where
  | completes {r : Response} {s' : State} (h : r.status.isError = false) : RequestEnd s (complete r s')
  | raises {st : Status} {info : Word} (h : st.Reports info) : RequestEnd s (raise st info s)

theorem requestEnd_withBuffer {k : Bytes → Result} (h : ∀ a, RequestEnd s (k a)) : RequestEnd s (withBuffer s k) := by
  rw [withBuffer]
  split
  · exact .raises (Status.reports_zero (by decide))
  · exact h s.inA

theorem requestEnd_execFrameEnc (t : Half) (s : State) : RequestEnd s (execFrameEnc t s) := by
  refine requestEnd_withBuffer fun a => ?_
  split
  · exact .raises (Status.reports_zero (by decide))
  · exact .completes rfl

theorem requestEnd_execFrameDec (s : State) : RequestEnd s (execFrameDec s) := by
  refine requestEnd_withBuffer fun a => ?_
  split
  · exact .raises (Status.reports_frameReason _)
  · exact .completes rfl

/-- NOT_FOUND is a result (R82). -/
theorem requestEnd_execRsyncScan (s : State) : RequestEnd s (execRsyncScan s) := by
  refine requestEnd_withBuffer fun a => ?_
  split <;> exact .completes rfl

theorem requestEnd_execKeycode (tok : Byte) (s : State) : RequestEnd s (execKeycode tok s) := by
  rw [execKeycode]
  split
  · exact .raises (Status.reports_zero (by decide))
  · exact .completes rfl

theorem requestEnd_execKeyFrame (tok : Byte) (s : State) : RequestEnd s (execKeyFrame tok s) := by
  rw [execKeyFrame]
  split
  · exact .raises (Status.reports_zero (by decide))
  · exact .completes rfl

theorem requestEnd_execKeyFrameCode (code : Half) (s : State) : RequestEnd s (execKeyFrameCode code s) := by
  rw [execKeyFrameCode]
  split
  · exact .raises (Status.reports_zero (by decide))
  · exact .completes rfl

theorem requestEnd_exec (i : Instr) (s : State) : RequestEnd s (exec i s) := by
  cases i with
  | crc16 | crcFeed | xor | ksXor | rsyncCheck => exact requestEnd_withBuffer fun _ => .completes rfl
  | crcTbl | crcInit | crcRead | ksInit => exact .completes rfl
  | frameEnc t => exact requestEnd_execFrameEnc t s
  | frameDec => exact requestEnd_execFrameDec s
  | rsyncScan => exact requestEnd_execRsyncScan s
  | keycode tok => exact requestEnd_execKeycode tok s
  | keyFrame tok => exact requestEnd_execKeyFrame tok s
  | keyFrameCode code => exact requestEnd_execKeyFrameCode code s

theorem requestEnd_runRequest (w : Word) (a : Bytes) (s : State) : RequestEnd (present a s) (runRequest w a s) := by
  rw [runRequest]
  split
  · exact requestEnd_exec _ _
  · exact .raises (Status.reports_zero (by decide))

/-- An answer with an error status was raised. -/
theorem RequestEnd.eq_raise_of_isError {x : Result} {t : State} {r : Response} (h : RequestEnd s x) (hx : x = .next t)
    (hr : t.response = some r) (herr : r.status.isError = true) :
    ∃ st info, st.Reports info ∧ r = { status := st, v0 := info } ∧ t = respond r s := by
  cases h with
  | completes hok =>
    obtain rfl := Host.Outcome.next.inj hx
    obtain rfl := Option.some.inj hr
    exact absurd herr (Bool.eq_false_iff.mp hok)
  | raises hinfo =>
    obtain rfl := Host.Outcome.next.inj hx
    obtain rfl := Option.some.inj hr
    exact ⟨_, _, hinfo, rfl, rfl⟩

/-- Settles O44: an error is answered by a raise, on the state as it stood when the request was presented. -/
theorem errorLeavesStateUntouched : Obligations.ErrorLeavesStateUntouched := by
  intro s w a rest t r ⟨hinbox, hreset⟩ hstep hr herr
  rw [step_request hinbox hreset] at hstep
  obtain ⟨st, info, ⟨hzero, hreason⟩, rfl, rfl⟩ := (requestEnd_runRequest w a _).eq_raise_of_isError hstep hr herr
  exact ⟨rfl, rfl, rfl, rfl, rfl, rfl, hzero, hreason⟩

end Sys2Proof.Machine
end

section
/-! SUPPORT. Decoding and encoding are inverse (30_encoding.md R33, R34, R42 to R44): a word is its three fields, and the
words the decoder rejects are R43's. -/

open Sys2Proof.Machine Sys2Proof.Stmt

namespace Sys2Proof

variable {w : Word}

/-! ## A word is its fields (R33) -/

theorem packWord_fields (h : rsvField w = 0) : packWord (immField w) (opField w) = w := by
  apply BitVec.eq_of_toNat_eq
  have hrsv := rsvField_eq_zero_iff.mp h
  rw [toNat_packWord, toNat_immField, toNat_opField]
  omega

theorem encode_of_decode {i : Instr} (h : decode w = .ok i) : encode i = w := by
  obtain ⟨hrsv, hop, himm⟩ := decode_eq_ok_iff.mp h
  rw [encode, ← hop, ← himm, packWord_fields hrsv]

/-- Settles O8: the fields of a decoded word are those of its instruction, and a word is packed from its fields. -/
theorem decodeInvertsEncode : Obligations.DecodeInvertsEncode := by
  intro w i
  constructor
  · exact encode_of_decode
  · rintro rfl
    exact decode_encode i

/-! ## The words that do not decode (R43) -/

theorem decodeNoImm_error {i : Instr} {e : IllegalWord} (h : decodeNoImm w i = .error e) : immField w ≠ 0 := by
  intro himm
  rw [decodeNoImm, if_pos himm] at h
  cases h

theorem decodeByteImm_error {i : Byte → Instr} {e : IllegalWord} (h : decodeByteImm w i = .error e) :
    immHigh w ≠ 0 := by
  intro himm
  rw [decodeByteImm, if_pos himm] at h
  cases h

/-- R43's first list: the numbers that are no operation. -/
theorem unassigned_or_opcode (op : Byte) :
    (op.toNat = 0 ∨ (0x06 ≤ op.toNat ∧ op.toNat ≤ 0x0F) ∨ (0x13 ≤ op.toNat ∧ op.toNat ≤ 0x1F) ∨
        (0x22 ≤ op.toNat ∧ op.toNat ≤ 0x2F) ∨ (0x32 ≤ op.toNat ∧ op.toNat ≤ 0x3F) ∨
        (0x43 ≤ op.toNat ∧ op.toNat ≤ 0xFF)) ∨
      op ∈ [0x01#8, 0x02, 0x03, 0x04, 0x05, 0x10, 0x11, 0x12, 0x20, 0x21, 0x30, 0x31, 0x40, 0x41, 0x42] := by
  revert op
  decide

/-- Each branch of the opcode map that rejects the word is one of R43's. -/
theorem illegal_of_decodeOp_error {e : IllegalWord} (h : decodeOp w = .error e) : illegal w := by
  unfold decodeOp at h
  split at h
  case h_16 =>
    rcases unassigned_or_opcode (opField w) with hop | hop
    · rw [toNat_opField] at hop
      exact .inr (.inl hop)
    · simp only [List.mem_cons, List.not_mem_nil, or_false] at hop
      tauto
  case h_9 | h_15 => cases h
  case h_2 hop | h_13 hop | h_14 hop =>
    exact illegal_of_immHigh (hop ▸ by decide) (decodeByteImm_error h)
  all_goals
    rename_i hop
    exact illegal_of_immField (hop ▸ by decide) (decodeNoImm_error h)

theorem illegal_of_decode_error {e : IllegalWord} (h : decode w = .error e) : illegal w := by
  rw [decode] at h
  split at h
  next => exact illegal_of_decodeOp_error h
  next hrsv => exact illegal_of_rsvField hrsv

/-- Settles O7: what the decoder rejects is illegal, and no illegal word decodes. -/
theorem legalWordsAreExactlyThoseDecoded : Obligations.LegalWordsAreExactlyThoseDecoded := by
  intro w
  constructor
  · rintro ⟨i, h⟩
    exact not_illegal_of_decode h
  · intro hlegal
    cases hd : decode w with
    | ok i => exact ⟨i, rfl⟩
    | error e => exact absurd (illegal_of_decode_error hd) hlegal

/-! ## Words written out -/

/-- Settles O4: each word has the fields of its operation. -/
theorem specWordsDecode : Obligations.SpecWordsDecode :=
  ⟨decode_encode .crc16, decode_encode (.crcTbl 0xFF), decode_encode .crcFeed, decode_encode .ksXor,
    decode_encode (.frameEnc 0x1234), decode_encode .frameDec, decode_encode .rsyncScan, decode_encode (.keyFrame 11),
    decode_encode (.keyFrameCode 0x0120)⟩

/-- Settles O41: the word of a line is packed from the same two fields. -/
theorem assemblerMatchesSpec : Obligations.AssemblerMatchesSpec :=
  ⟨by decide, by decide, by decide, by decide, fun i => (packWord_eq_or i.imm i.opcode).symm⟩

end Sys2Proof
end

section
/-! SUPPORT. What an operation sees and writes (10_state.md R12 to R16): ten operations see the parameters and the buffer
alone and write no register; the other five are the registers' own. -/

open Sys2Proof.Stmt

namespace Sys2Proof.Machine

/-! ## Operations without a register -/

/-- An operation whose response depends on the parameters and the buffer alone, and that writes no register. -/
def Quiet (x : State → Result) : Prop :=
  ∃ f : Params → Bytes → Response, ∀ s, x s = .next (respond (f s.params s.inA) s)

theorem quiet_of_forall {x : State → Result}
    (h : ∀ p a, ∃ r, ∀ s : State, x { s with params := p, inA := a } =
      .next (respond r { s with params := p, inA := a })) : Quiet x := by
  choose f hf using h
  exact ⟨f, fun s => hf s.params s.inA s⟩

/-- The check of the buffer's length sees the parameters and the buffer. -/
theorem quiet_withBuffer {k : State → Bytes → Result}
    (h : ∀ p a, ∃ r, ∀ s : State, k { s with params := p } a = .next (respond r { s with params := p })) :
    Quiet fun s => withBuffer s (k s) := by
  refine quiet_of_forall fun p a => ?_
  rcases Nat.lt_or_ge p.maxBuf.toNat a.length with hlong | hread
  · exact ⟨_, fun _ => withBuffer_of_lt hlong⟩
  · obtain ⟨r, hr⟩ := h p a
    exact ⟨r, fun s => (withBuffer_of_le hread).trans (hr { s with inA := a })⟩

theorem quiet_execCrc16 : Quiet execCrc16 := by
  refine quiet_withBuffer fun p a => ?_
  exact ⟨{ status := .ok, v0 := zext32 (crc16 a) }, fun _ => rfl⟩

theorem quiet_execXor : Quiet execXor := by
  refine quiet_withBuffer fun p a => ?_
  exact ⟨{ status := .ok, out := xork p.key a 0 }, fun _ => rfl⟩

theorem quiet_execRsyncCheck : Quiet execRsyncCheck := by
  refine quiet_withBuffer fun p a => ?_
  exact ⟨{ status := .ok, flags := framedFlags (framed a) }, fun _ => rfl⟩

theorem quiet_execFrameEnc (t : Half) : Quiet (execFrameEnc t) := by
  refine quiet_withBuffer fun p a => ?_
  split
  · exact ⟨{ status := .errLen }, fun _ => rfl⟩
  · exact ⟨{ status := .ok
             v0 := zext32 (crc16 (innerBlock t a))
             v1 := len32 (innerBlock t a).length
             out := frameEncode p.key t a }, fun _ => rfl⟩

theorem quiet_execFrameDec : Quiet execFrameDec := by
  refine quiet_withBuffer fun p a => ?_
  cases frameCheck a with
  | error reason => exact ⟨{ status := .frameErr, v0 := reason.code }, fun _ => rfl⟩
  | ok len => exact ⟨decodedResponse (framePlain p.key a) len, fun _ => rfl⟩

theorem quiet_execRsyncScan : Quiet execRsyncScan := by
  refine quiet_withBuffer fun p a => ?_
  dsimp only
  cases scan p.scanMode a with
  | notFound => exact ⟨_, fun _ => rfl⟩
  | found start length range => exact ⟨_, fun _ => rfl⟩

theorem quiet_execKeycode (tok : Byte) : Quiet (execKeycode tok) := by
  unfold execKeycode
  cases keycodeOf tok with
  | none => exact ⟨fun _ _ => _, fun _ => rfl⟩
  | some k => exact ⟨fun _ _ => _, fun _ => rfl⟩

theorem quiet_execKeyFrame (tok : Byte) : Quiet (execKeyFrame tok) := by
  unfold execKeyFrame
  cases keycodeOf tok with
  | none => exact ⟨fun _ _ => _, fun _ => rfl⟩
  | some k => exact ⟨fun p _ => keyFrameResponse p k, fun _ => rfl⟩

theorem quiet_execKeyFrameCode (code : Half) : Quiet (execKeyFrameCode code) := by
  unfold execKeyFrameCode
  split
  · exact ⟨fun _ _ => _, fun _ => rfl⟩
  · exact ⟨fun p _ => keyFrameResponse p code, fun _ => rfl⟩

/-- The operations that read or write a register (10_state.md R13, R14). -/
def usesRegister : Instr → Bool
  | .crcInit | .crcFeed | .crcRead | .ksInit | .ksXor => true
  | .crc16 | .crcTbl _ | .xor | .frameEnc _ | .frameDec | .rsyncCheck | .rsyncScan | .keycode _ | .keyFrame _
  | .keyFrameCode _ => false

theorem quiet_exec {i : Instr} (h : usesRegister i = false) : Quiet (exec i) := by
  cases i with
  | crcInit | crcFeed | crcRead | ksInit | ksXor => cases h
  | crc16 => exact quiet_execCrc16
  | crcTbl => exact ⟨fun _ _ => _, fun _ => rfl⟩
  | xor => exact quiet_execXor
  | frameEnc t => exact quiet_execFrameEnc t
  | frameDec => exact quiet_execFrameDec
  | rsyncCheck => exact quiet_execRsyncCheck
  | rsyncScan => exact quiet_execRsyncScan
  | keycode tok => exact quiet_execKeycode tok
  | keyFrame tok => exact quiet_execKeyFrame tok
  | keyFrameCode code => exact quiet_execKeyFrameCode code

/-- States that differ in neither the parameters nor the buffer get the same response. -/
theorem exec_congr_of_quiet {i : Instr} {s s' t : State} (h : usesRegister i = false) (ht : exec i s = .next t)
    (hparams : s'.params = s.params) (hA : s'.inA = s.inA) :
    ∃ r, t = respond r s ∧ exec i s' = .next (respond r s') := by
  obtain ⟨f, hf⟩ := quiet_exec h
  exact ⟨_, Host.Outcome.next.inj (ht.symm.trans (hf s)), by rw [hf, hparams, hA]⟩

/-! ## Every operation -/

/-- What an operation answers: its response and the registers' values. -/
structure Answer where
  crcAcc : Half
  ksIdx : BitVec 4
  response : Response

/-- An answer is a function of the registers, the parameters and the buffer, and of nothing else. -/
abbrev AnswerFun := Half → BitVec 4 → Params → Bytes → Answer

/-- The state that an answer leaves. -/
def Answer.state (g : Answer) (s : State) : State := answer s g.crcAcc g.ksIdx g.response

/-- The answer in state s. -/
def AnswerFun.at (f : AnswerFun) (s : State) : Answer := f s.crcAcc s.ksIdx s.params s.inA

/-- The answer of CRC_FEED (R50). -/
def crcFeedAnswer : AnswerFun := fun c k p a =>
  if p.maxBuf.toNat < a.length then ⟨c, k, { status := .errLen }⟩
  else ⟨crc16From a c, k, { status := .ok, v0 := zext32 (crc16From a c) }⟩

/-- The answer of KS_XOR (R59). -/
def ksXorAnswer : AnswerFun := fun c k p a =>
  if p.maxBuf.toNat < a.length then ⟨c, k, { status := .errLen }⟩
  else ⟨c, ksAdvance k a.length, { status := .ok, out := xork p.key a k.toNat }⟩

theorem execCrcFeed_eq (s : State) : execCrcFeed s = .next ((crcFeedAnswer.at s).state s) := by
  unfold AnswerFun.at crcFeedAnswer
  split
  next hlong => exact withBuffer_of_lt hlong
  next hread => exact execCrcFeed_of_le (Nat.not_lt.mp hread)

theorem execKsXor_eq (s : State) : execKsXor s = .next ((ksXorAnswer.at s).state s) := by
  unfold AnswerFun.at ksXorAnswer
  split
  next hlong => exact withBuffer_of_lt hlong
  next hread => exact execKsXor_of_le (Nat.not_lt.mp hread)

/-- Every operation answers, by a function of the registers, the parameters and the buffer (R12, R22, R80). -/
theorem exec_eq_answer (i : Instr) : ∃ f : AnswerFun, ∀ s, exec i s = .next ((f.at s).state s) := by
  cases h : usesRegister i with
  | false =>
    obtain ⟨g, hg⟩ := quiet_exec h
    exact ⟨fun c k p a => ⟨c, k, g p a⟩, hg⟩
  | true =>
    cases i with
    | crcInit => exact ⟨fun _ k _ _ => ⟨crcInitValue, k, { status := .ok }⟩, fun _ => rfl⟩
    | crcFeed => exact ⟨crcFeedAnswer, execCrcFeed_eq⟩
    | crcRead => exact ⟨fun c k _ _ => ⟨c, k, { status := .ok, v0 := zext32 c }⟩, fun _ => rfl⟩
    | ksInit => exact ⟨fun c _ _ _ => ⟨c, 0, { status := .ok }⟩, fun _ => rfl⟩
    | ksXor => exact ⟨ksXorAnswer, execKsXor_eq⟩
    | _ => cases h

/-- A request, its word legal or not, answers by such a function too (R86). -/
theorem runRequest_eq_answer (w : Word) (a : Bytes) :
    ∃ f : AnswerFun, ∀ s, runRequest w a s = .next ((f.at (present a s)).state s) := by
  cases hd : decode w with
  | ok i =>
    obtain ⟨f, hf⟩ := exec_eq_answer i
    exact ⟨f, fun s => (runRequest_ok hd).trans (hf (present a s))⟩
  | error e => exact ⟨fun c k _ _ => ⟨c, k, { status := .errOp }⟩, fun _ => runRequest_error hd⟩

/-! ## The registers -/

theorem crcFeedAnswer_ksIdx (s : State) : (crcFeedAnswer.at s).ksIdx = s.ksIdx := by
  unfold AnswerFun.at crcFeedAnswer
  split <;> rfl

theorem ksXorAnswer_crcAcc (s : State) : (ksXorAnswer.at s).crcAcc = s.crcAcc := by
  unfold AnswerFun.at ksXorAnswer
  split <;> rfl

/-- Settles O42: an operation without a register leaves both, and each of the other five leaves the one it does not
name. -/
theorem everyInstructionAnswersAndFrame : Obligations.EveryInstructionAnswersAndFrame := by
  intro i s
  cases h : usesRegister i with
  | false =>
    obtain ⟨f, hf⟩ := quiet_exec h
    exact ⟨s.crcAcc, s.ksIdx, f s.params s.inA, hf s, fun _ _ => rfl, fun _ _ => rfl⟩
  | true =>
    cases i with
    | crcInit => exact ⟨_, _, _, rfl, fun h => absurd rfl h, fun _ _ => rfl⟩
    | crcFeed => exact ⟨_, _, _, execCrcFeed_eq s, fun _ h => absurd rfl h, fun _ _ => crcFeedAnswer_ksIdx s⟩
    | crcRead => exact ⟨_, _, _, rfl, fun _ _ => rfl, fun _ _ => rfl⟩
    | ksInit => exact ⟨_, _, _, rfl, fun _ _ => rfl, fun h => absurd rfl h⟩
    | ksXor => exact ⟨_, _, _, execKsXor_eq s, fun _ _ => ksXorAnswer_crcAcc s, fun _ h => absurd rfl h⟩
    | _ => cases h

/-- KS_XOR passes CRC_ACC by. -/
theorem ksXorAnswer_setCrcAcc (s : State) (c : Half) :
    ksXorAnswer.at { s with crcAcc := c } = { ksXorAnswer.at s with crcAcc := c } := by
  unfold AnswerFun.at ksXorAnswer
  dsimp only
  split <;> rfl

/-- CRC_FEED passes KS_IDX by. -/
theorem crcFeedAnswer_setKsIdx (s : State) (k : BitVec 4) :
    crcFeedAnswer.at { s with ksIdx := k } = { crcFeedAnswer.at s with ksIdx := k } := by
  unfold AnswerFun.at crcFeedAnswer
  dsimp only
  split <;> rfl

/-- Settles O43: an operation without a register does not see one, and of the five others the readers are excepted. -/
theorem registersAreReadByTheirOperationsOnly : Obligations.RegistersAreReadByTheirOperationsOnly := by
  constructor
  · intro i s t c hfeed hread ht
    cases h : usesRegister i with
    | false =>
      obtain ⟨r, rfl, hexec⟩ := exec_congr_of_quiet h ht (s' := { s with crcAcc := c }) rfl rfl
      rw [hexec, if_neg (by rintro rfl; cases h)]
      rfl
    | true =>
      cases i with
      | crcInit | ksInit => obtain rfl := Host.Outcome.next.inj ht; rfl
      | crcFeed => exact absurd rfl hfeed
      | crcRead => exact absurd rfl hread
      | ksXor =>
        obtain rfl := Host.Outcome.next.inj ((execKsXor_eq s).symm.trans ht)
        refine (execKsXor_eq { s with crcAcc := c }).trans ?_
        rw [ksXorAnswer_setCrcAcc]
        rfl
      | _ => cases h
  · intro i s t k hxor ht
    cases h : usesRegister i with
    | false =>
      obtain ⟨r, rfl, hexec⟩ := exec_congr_of_quiet h ht (s' := { s with ksIdx := k }) rfl rfl
      rw [hexec, if_neg (by rintro rfl; cases h)]
      rfl
    | true =>
      cases i with
      | crcInit | crcRead | ksInit => obtain rfl := Host.Outcome.next.inj ht; rfl
      | ksXor => exact absurd rfl hxor
      | crcFeed =>
        obtain rfl := Host.Outcome.next.inj ((execCrcFeed_eq s).symm.trans ht)
        refine (execCrcFeed_eq { s with ksIdx := k }).trans ?_
        rw [crcFeedAnswer_setKsIdx]
        rfl
      | _ => cases h

/-! ## The buffer (R34, R88) -/

/-- Settles O47: the check of the buffer is the first thing each of these operations does. -/
theorem longBufferIsErrLenFirst : Obligations.LongBufferIsErrLenFirst := fun _ => longBufferErrLen_of_readsBuffer

/-- Settles O48: none of these operations has the buffer in its meaning, and the response drops it. -/
theorem unusedBufferIsIgnored : Obligations.UnusedBufferIsIgnored := by
  intro i s a h
  cases i with
  | crcTbl | crcInit | crcRead | ksInit => rfl
  | keycode tok => dsimp only [exec, execKeycode]; cases keycodeOf tok <;> rfl
  | keyFrame tok => dsimp only [exec, execKeyFrame]; cases keycodeOf tok <;> rfl
  | keyFrameCode code => dsimp only [exec, execKeyFrameCode]; split <;> rfl
  | _ => cases h

end Sys2Proof.Machine
end

section
/-! SUPPORT. A step and a run, by the host's next event (20_memory.md R29, 70_reset_and_hazards.md R94 to R96): what they
see, what they leave, and that an obedient host is always answered. -/

open Sys2Proof.Safety Sys2Proof.Stmt

namespace Sys2Proof.Machine

variable {s t : State} {rest : List HostEvent}

/-! ## What a step sees and leaves (R12, R22, R29, R31) -/

theorem step_cons {e : HostEvent} (h : s.inbox = e :: rest) : step s = handleEvent e { s with inbox := rest } := by
  simp only [step, h]

theorem handleEvent_request {w : Word} {a : Bytes} (h : s.inReset = false) :
    handleEvent (.request w a) s = runRequest w a s := if_neg (by simp [h])

theorem handleEvent_request_inReset {w : Word} {a : Bytes} (h : s.inReset = true) :
    handleEvent (.request w a) s = .refused .requestDuringReset := if_pos h

/-- An event ends with a next state or a refusal, whatever the host does after it, and leaves the parameters. -/
theorem handleEvent_cases (e : HostEvent) (s : State) :
    (∃ t : State, t.params = s.params ∧ ∀ l, handleEvent e { s with inbox := l } = .next { t with inbox := l }) ∨
      ∃ q, ∀ l, handleEvent e { s with inbox := l } = .refused q := by
  cases e with
  | request w a =>
    rcases Bool.eq_false_or_eq_true s.inReset with hr | hr
    · exact .inr ⟨.requestDuringReset, fun _ => handleEvent_request_inReset hr⟩
    · obtain ⟨f, hf⟩ := runRequest_eq_answer w a
      refine .inl ⟨(f.at (present a s)).state s, rfl, fun l => ?_⟩
      exact (handleEvent_request (s := { s with inbox := l }) hr).trans (hf _)
  | resetAssert => exact .inl ⟨enterReset s, rfl, fun _ => rfl⟩
  | resetRelease => exact .inl ⟨leaveReset s, rfl, fun _ => rfl⟩

theorem step_params (h : step s = .next t) : t.params = s.params := by
  cases hinbox : s.inbox with
  | nil =>
    obtain rfl := Host.Outcome.next.inj ((step_idle hinbox).symm.trans h)
    rfl
  | cons e rest =>
    rw [step_cons hinbox] at h
    rcases handleEvent_cases e s with ⟨u, hparams, hnext⟩ | ⟨q, hrefused⟩
    · obtain rfl := Host.Outcome.next.inj ((hnext rest).symm.trans h)
      exact hparams
    · cases (hrefused rest).symm.trans h

/-- Settles O5: the decoder's answer selects the operation. -/
theorem stepRunsDecodedInstruction : Obligations.StepRunsDecodedInstruction := by
  intro s w a rest i ⟨hinbox, hreset⟩ hd
  rw [step_request hinbox hreset, runRequest_ok hd]
  rfl

/-- Settles O50: an answer is a function of the registers, the parameters and the buffer, and replaces the response. -/
theorem earlierResponseIsNotSeen : Obligations.EarlierResponseIsNotSeen := by
  intro s w a rest q hinbox
  rcases Bool.eq_false_or_eq_true s.inReset with hr | hr
  · rw [step_request_inReset hinbox hr, step_request_inReset (s := { s with response := q }) hinbox hr]
  · obtain ⟨f, hf⟩ := runRequest_eq_answer w a
    rw [step_request hinbox hr, step_request (s := { s with response := q }) hinbox hr, hf, hf]
    rfl

/-- Settles O51: an event's end is the same before any later events. -/
theorem laterRequestsAreNotSeen : Obligations.LaterRequestsAreNotSeen := by
  intro s e rest rest' hinbox
  rw [step_cons hinbox, step_cons (s := { s with inbox := e :: rest' }) rfl]
  rcases handleEvent_cases e s with ⟨u, -, hnext⟩ | ⟨q, hrefused⟩
  · rw [hnext, hnext]
    refine ⟨fun t ht => ?_, nofun⟩
    obtain rfl := Host.Outcome.next.inj ht
    exact ⟨rfl, rfl⟩
  · rw [hrefused, hrefused]
    exact ⟨nofun, fun _ => id⟩

/-- Settles O46: a response's status is one of the six. -/
theorem statusCodes : Obligations.StatusCodes := by
  refine ⟨rfl, rfl, rfl, rfl, rfl, rfl, fun s t r _ _ _ => ?_⟩
  cases r.status <;> decide

/-! ## No event, and reset -/

/-- Settles O3: the step of an empty list of events is the idle one. -/
theorem idleChangesNothing : Obligations.IdleChangesNothing := fun _ => step_idle

/-- Settles O2: the reset line is looked at before the word. -/
theorem requestDuringResetIsRefused : Obligations.RequestDuringResetIsRefused :=
  fun _ _ _ _ => step_request_inReset

/-- Settles O1: entering reset writes the reset values, and leaving it writes the reset line alone. -/
theorem resetGivesResetValues : Obligations.ResetGivesResetValues := by
  refine ⟨⟨rfl, rfl, rfl, rfl⟩, fun s rest h => ?_⟩
  have hrun : core.run 2 s = .next (leaveReset { enterReset s with inbox := rest }) :=
    (run_succ 1 (step_resetAssert h)).trans (run_succ 0 (step_resetRelease rfl))
  exact ⟨_, hrun, rfl, rfl, rfl, rfl, rfl, rfl⟩

/-! ## Runs -/

/-- The first step of a run that reaches a state. -/
theorem exists_step_of_run {k : Nat} (h : core.run (k + 1) s = .next t) :
    ∃ u, step s = .next u ∧ core.run k u = .next t := by
  cases hstep : step s with
  | next u => exact ⟨u, rfl, (run_succ k hstep).symm.trans h⟩
  | fault q => cases q
  | refused q =>
    simp only [Host.Core.run, core, hstep] at h
    cases h

/-- Settles O52: no step of the run changes the parameters. -/
theorem parametersNeverChange : Obligations.ParametersNeverChange := by
  intro k
  induction k with
  | zero =>
    intro s t h
    obtain rfl := Host.Outcome.next.inj h
    rfl
  | succ k ih =>
    intro s t h
    obtain ⟨u, hstep, hrun⟩ := exists_step_of_run h
    rw [ih u t hrun, step_params hstep]

/-- Settles O55: the one event that is refused is the one the host does not issue, and `hostObeysReset` follows the reset
line as the block does. -/
theorem obedienceIsKeptAndAnswered : Obligations.ObedienceIsKeptAndAnswered := by
  intro s hobeys
  cases hinbox : s.inbox with
  | nil => exact ⟨s, step_idle hinbox, hobeys⟩
  | cons e rest =>
    rw [hinbox] at hobeys
    cases e with
    | request w a =>
      obtain ⟨hreset, hrest⟩ := (Bool.and_eq_true_iff).mp hobeys
      rw [Bool.not_eq_true'] at hreset
      obtain ⟨f, hf⟩ := runRequest_eq_answer w a
      exact ⟨_, (step_request hinbox hreset).trans (hf _), hrest⟩
    | resetAssert => exact ⟨_, step_resetAssert hinbox, hobeys⟩
    | resetRelease => exact ⟨_, step_resetRelease hinbox, hobeys⟩

/-- Settles O56: each step of the run is answered and leaves an obedient host obedient. -/
theorem obedientHostIsAlwaysAnswered : Obligations.ObedientHostIsAlwaysAnswered := by
  intro k
  induction k with
  | zero => exact fun s _ => ⟨s, rfl⟩
  | succ k ih =>
    intro s hobeys
    obtain ⟨u, hstep, hkept⟩ := obedienceIsKeptAndAnswered s hobeys
    rw [run_succ k hstep]
    exact ih u hkept

end Sys2Proof.Machine
end

section
/-! SUPPORT. What a response may hold (30_encoding.md R35, R41; 60_exceptions.md R81, R82): its form, its flag bits, and the
cause of its status, said once for every operation. -/

open Sys2Proof.Safety Sys2Proof.Stmt

namespace Sys2Proof.Machine

/-! ## The rules of a response -/

/-- The flag bits an operation may set (10_state.md R16). -/
def FlagRule (i : Instr) (flags : Byte) : Prop :=
  (i ≠ .frameDec → i ≠ .rsyncCheck → flags = 0) ∧ (i = .frameDec → flags.toNat < 4) ∧
    (i = .rsyncCheck → flags.toNat < 2)

/-- The causes of each status in state s (60_exceptions.md R82). -/
def StatusRule (i : Instr) (s : State) (st : Status) : Prop :=
  st ≠ .errOp ∧
  (st = .errLen ↔ (readsBuffer i = true ∧ ¬ readable s) ∨ (∃ ct, i = .frameEnc ct) ∧ 65531 < s.inA.length) ∧
  (st = .errKey ↔ i.wf = false) ∧
  (st = .frameErr ↔ i = .frameDec ∧ readable s ∧ failsFrameCheck s.inA) ∧
  (st = .notFound ↔ i = .rsyncScan ∧ readable s ∧ ¬ hasMarkedRange s.inA)

/-- The rules of the response r of operation i in state s. -/
structure ResponseRules (i : Instr) (s : State) (r : Response) : Prop where
  form : responseForm r
  flags : FlagRule i r.flags
  status : StatusRule i s r.status

/-- The request ends with a response that keeps its rules. -/
def AnswersByRule (i : Instr) (s : State) (x : Result) : Prop :=
  ∃ r s', x = .next (respond r s') ∧ ResponseRules i s r

section
variable {i : Instr} {s : State} {r : Response}

theorem flagRule_zero (i : Instr) : FlagRule i 0 :=
  ⟨fun _ _ => rfl, fun _ => by decide, fun _ => by decide⟩

theorem FlagRule.toNat_lt {flags : Byte} (h : FlagRule i flags) : flags.toNat < 4 := by
  obtain ⟨hother, hdec, hcheck⟩ := h
  by_cases hi : i = .frameDec
  · exact hdec hi
  · by_cases hi' : i = .rsyncCheck
    · exact (hcheck hi').trans (by decide)
    · rw [hother hi hi']
      decide

theorem responseRules_of_ok (hok : r.status = .ok) (hflags : FlagRule i r.flags) (hstatus : StatusRule i s .ok) :
    ResponseRules i s r where
  form := by simp [responseForm, hok, Status.isError, hflags.toNat_lt]
  flags := hflags
  status := hok ▸ hstatus

/-- A raise of one of the five errors (R81). -/
theorem responseRules_of_raise {st : Status} {info : Word} (hst : st ≠ .notFound) (hinfo : st.Reports info)
    (hstatus : StatusRule i s st) : ResponseRules i s { status := st, v0 := info } where
  form := ⟨fun _ => ⟨rfl, rfl, rfl, rfl, rfl⟩, hinfo.2, fun _ => hinfo.1, fun h => absurd h hst, by simp⟩
  flags := flagRule_zero i
  status := hstatus

theorem responseRules_of_notFound {out : Bytes} (hstatus : StatusRule i s .notFound) :
    ResponseRules i s { status := .notFound, out := out } where
  form := by simp [responseForm, Status.isError]
  flags := flagRule_zero i
  status := hstatus

/-! ## The length of the buffer (R32, R85) -/

/-- Only a key operand can be ill formed, and no operation has both a key operand and the buffer. -/
theorem wf_of_readsBuffer (h : readsBuffer i = true) : i.wf = true := by
  cases i with
  | keycode | keyFrame | keyFrameCode => cases h
  | _ => rfl

theorem statusRule_of_not_readable (h : readsBuffer i = true) (hlong : ¬ readable s) : StatusRule i s .errLen := by
  simp [StatusRule, h, hlong, wf_of_readsBuffer h]

theorem answersByRule_withBuffer {k : Bytes → Result} (h : readsBuffer i = true)
    (hk : readable s → AnswersByRule i s (k s.inA)) : AnswersByRule i s (withBuffer s k) := by
  rcases Nat.lt_or_ge s.params.maxBuf.toNat s.inA.length with hlong | hread
  · exact ⟨_, _, withBuffer_of_lt hlong, responseRules_of_raise (by decide) (Status.reports_zero (by decide))
      (statusRule_of_not_readable h (Nat.not_le.mpr hlong))⟩
  · rw [withBuffer_of_le hread]
    exact hk hread

/-! ## Operations whose only error is a long buffer -/

theorem statusRule_ok_of_readable (h : readsBuffer i = true) (hread : readable s) (henc : ∀ ct, i ≠ .frameEnc ct)
    (hdec : i ≠ .frameDec) (hscan : i ≠ .rsyncScan) : StatusRule i s .ok := by
  simp [StatusRule, hread, henc, hdec, hscan, wf_of_readsBuffer h]

/-- An operation without the buffer and with no key operand out of range is answered OK. -/
theorem statusRule_ok_of_wf (h : readsBuffer i = false) (hwf : i.wf = true) : StatusRule i s .ok := by
  cases i with
  | crcTbl | crcInit | crcRead | ksInit | keycode | keyFrame | keyFrameCode => simp [StatusRule, readsBuffer, hwf]
  | _ => cases h

theorem statusRule_errKey_of_not_wf (hwf : i.wf = false) : StatusRule i s .errKey := by
  cases i with
  | keycode | keyFrame | keyFrameCode => simp [StatusRule, readsBuffer, hwf]
  | _ => cases hwf

end

section
variable (s : State)

/-! ## The frame codec and the scan -/

theorem answersByRule_execFrameEnc (t : Half) : AnswersByRule (.frameEnc t) s (execFrameEnc t s) := by
  refine answersByRule_withBuffer rfl fun hread => ?_
  split
  next hbody =>
    have hstatus : StatusRule (.frameEnc t) s .errLen := by simp [StatusRule, Instr.wf, show 65531 < s.inA.length from hbody]
    exact ⟨_, _, rfl, responseRules_of_raise (by decide) (Status.reports_zero (by decide)) hstatus⟩
  next hbody =>
    have hstatus : StatusRule (.frameEnc t) s .ok := by
      simp [StatusRule, Instr.wf, hread, show s.inA.length ≤ 65531 from Nat.not_lt.mp hbody]
    exact ⟨_, _, rfl, responseRules_of_ok rfl (flagRule_zero _) hstatus⟩

/-- The check passes a frame exactly where R62 asks. -/
theorem frameCheck_eq_ok_iff {a : Bytes} {n : Nat} :
    frameCheck a = .ok n ↔ ¬ failsFrameCheck a ∧ n = lengthField a := by
  by_cases hmark : bothMarkers a
  · rw [frameCheck_of_bothMarkers hmark]
    simp only [failsFrameCheck, hmark, not_true_eq_false, false_or]
    split
    next hbad => simp [hbad]
    next hgood =>
      rw [Except.ok.injEq, eq_comm]
      exact ⟨fun h => ⟨hgood, h⟩, And.right⟩
  · rw [frameCheck_of_not_bothMarkers hmark]
    simp [failsFrameCheck, hmark]

theorem answersByRule_execFrameDec : AnswersByRule .frameDec s (execFrameDec s) := by
  refine answersByRule_withBuffer rfl fun hread => ?_
  cases hcheck : frameCheck s.inA with
  | error reason =>
    have hfails : failsFrameCheck s.inA := by
      by_contra hpass
      cases hcheck.symm.trans (frameCheck_eq_ok_iff.mpr ⟨hpass, rfl⟩)
    have hstatus : StatusRule .frameDec s .frameErr := by simp [StatusRule, Instr.wf, hread, hfails]
    exact ⟨_, _, rfl, responseRules_of_raise (by decide) (Status.reports_frameReason reason) hstatus⟩
  | ok len =>
    obtain ⟨hpass, -⟩ := frameCheck_eq_ok_iff.mp hcheck
    have hstatus : StatusRule .frameDec s .ok := by simp [StatusRule, Instr.wf, hread, hpass]
    have hflags : FlagRule .frameDec (decodedResponse (framePlain s.params.key s.inA) len).flags :=
      ⟨fun h => absurd rfl h, fun _ => toNat_decodeFlags_lt .., nofun⟩
    exact ⟨_, _, rfl, responseRules_of_ok rfl hflags hstatus⟩

theorem toNat_framedFlags_lt (b : Bool) : (framedFlags b).toNat < 2 := by
  cases b <;> decide

theorem answersByRule_execRsyncCheck : AnswersByRule .rsyncCheck s (execRsyncCheck s) := by
  refine answersByRule_withBuffer rfl fun hread => ⟨_, _, rfl, responseRules_of_ok rfl ?_ ?_⟩
  · exact ⟨fun _ h => absurd rfl h, nofun, fun _ => toNat_framedFlags_lt _⟩
  · exact statusRule_ok_of_readable rfl hread nofun nofun nofun

theorem answersByRule_execRsyncScan : AnswersByRule .rsyncScan s (execRsyncScan s) := by
  refine answersByRule_withBuffer rfl fun hread => ?_
  cases hscan : scan s.params.scanMode s.inA with
  | notFound =>
    have hstatus : StatusRule .rsyncScan s .notFound := by
      simp [StatusRule, Instr.wf, hread, scan_eq_notFound_iff.mp hscan]
    exact ⟨_, _, rfl, responseRules_of_notFound hstatus⟩
  | found start length range =>
    have hrange : hasMarkedRange s.inA := by
      by_contra hnone
      cases hscan.symm.trans (scan_eq_notFound_iff.mpr hnone)
    have hstatus : StatusRule .rsyncScan s .ok := by simp [StatusRule, Instr.wf, hread, hrange]
    exact ⟨_, _, rfl, responseRules_of_ok rfl (flagRule_zero _) hstatus⟩

/-! ## The keys -/

/-- A key operand in its range is answered OK, and one outside it ERR_KEY (R84). -/
theorem answersByRule_of_key {i : Instr} {x : Result} (h : readsBuffer i = false)
    (hok : i.wf = true → ∃ r : Response, x = .next (respond r s) ∧ r.status = .ok ∧ r.flags = 0)
    (herr : i.wf = false → x = .next (respond { status := .errKey } s)) : AnswersByRule i s x := by
  cases hwf : i.wf with
  | true =>
    obtain ⟨r, hx, hst, hflags⟩ := hok hwf
    exact ⟨r, s, hx, responseRules_of_ok hst (hflags ▸ flagRule_zero i) (statusRule_ok_of_wf h hwf)⟩
  | false =>
    exact ⟨_, s, herr hwf, responseRules_of_raise (by decide) (Status.reports_zero (by decide))
      (statusRule_errKey_of_not_wf hwf)⟩

theorem answersByRule_execKeycode (tok : Byte) : AnswersByRule (.keycode tok) s (execKeycode tok s) :=
  answersByRule_of_key s rfl (fun h => ⟨_, execKeycode_of_le s (of_decide_eq_true h), rfl, rfl⟩)
    fun h => execKeycode_of_lt s (Nat.not_le.mp (of_decide_eq_false h))

theorem answersByRule_execKeyFrame (tok : Byte) : AnswersByRule (.keyFrame tok) s (execKeyFrame tok s) :=
  answersByRule_of_key s rfl (fun h => ⟨_, execKeyFrame_of_le s (of_decide_eq_true h), rfl, rfl⟩)
    fun h => execKeyFrame_of_lt s (Nat.not_le.mp (of_decide_eq_false h))

theorem answersByRule_execKeyFrameCode (code : Half) :
    AnswersByRule (.keyFrameCode code) s (execKeyFrameCode code s) := by
  refine answersByRule_of_key s rfl (fun h => ?_) fun h => ?_
  · obtain ⟨hlow, hhigh⟩ := of_decide_eq_true h
    exact ⟨_, execKeyFrameCode_of_le_of_le s hlow hhigh, rfl, rfl⟩
  · have hout := of_decide_eq_false h
    exact execKeyFrameCode_of_lt_or_lt s (by omega)

/-! ## Every operation -/

theorem answersByRule_exec (i : Instr) : AnswersByRule i s (exec i s) := by
  cases i with
  | crc16 | crcFeed | xor | ksXor =>
    dsimp only [exec]
    refine answersByRule_withBuffer rfl fun hread => ?_
    refine ⟨_, _, rfl, responseRules_of_ok rfl (flagRule_zero _) ?_⟩
    exact statusRule_ok_of_readable rfl hread nofun nofun nofun
  | crcTbl | crcInit | crcRead | ksInit =>
    exact ⟨_, _, rfl, responseRules_of_ok rfl (flagRule_zero _) (statusRule_ok_of_wf rfl rfl)⟩
  | frameEnc t => exact answersByRule_execFrameEnc s t
  | frameDec => exact answersByRule_execFrameDec s
  | rsyncCheck => exact answersByRule_execRsyncCheck s
  | rsyncScan => exact answersByRule_execRsyncScan s
  | keycode tok => exact answersByRule_execKeycode s tok
  | keyFrame tok => exact answersByRule_execKeyFrame s tok
  | keyFrameCode code => exact answersByRule_execKeyFrameCode s code

end

/-- The response that stands after an operation keeps its rules. -/
theorem responseRules_of_exec {i : Instr} {s t : State} {r : Response} (h : exec i s = .next t)
    (hr : t.response = some r) : ResponseRules i s r := by
  obtain ⟨q, u, hq, hrules⟩ := answersByRule_exec s i
  obtain rfl := Host.Outcome.next.inj (hq.symm.trans h)
  obtain rfl := Option.some.inj hr
  exact hrules

/-- Settles O45: the causes are the status part of the rules of a response. -/
theorem statusCauses : Obligations.StatusCauses := fun _ _ _ _ h hr => (responseRules_of_exec h hr).status

/-- Settles O49: the flag bits are the flags part of the rules of a response. -/
theorem flagsOfTwoOperationsOnly : Obligations.FlagsOfTwoOperationsOnly :=
  fun _ _ _ _ h hr => (responseRules_of_exec h hr).flags

/-! ## The invariant -/

/-- A request, its word legal or not, is answered with a formed response. -/
theorem responseForm_of_runRequest {w : Word} {a : Bytes} {s t : State} {r : Response}
    (h : runRequest w a s = .next t) (hr : t.response = some r) : responseForm r := by
  cases hd : decode w with
  | ok i =>
    rw [runRequest_ok hd] at h
    exact (responseRules_of_exec h hr).form
  | error e =>
    obtain rfl := Host.Outcome.next.inj ((runRequest_error hd).symm.trans h)
    obtain rfl := Option.some.inj hr
    decide

theorem stateInv_of_runRequest {w : Word} {a : Bytes} {s t : State} (hreset : s.inReset = false)
    (h : runRequest w a s = .next t) : StateInv t := by
  have hform : ∀ r, t.response = some r → responseForm r := fun _ hr => responseForm_of_runRequest h hr
  obtain ⟨f, hf⟩ := runRequest_eq_answer w a
  obtain rfl := Host.Outcome.next.inj ((hf s).symm.trans h)
  exact ⟨rfl, fun hheld => absurd (hreset.symm.trans hheld) (by decide), hform⟩

/-- Settles O53: no buffer, no response, and the reset line released. -/
theorem invariantHoldsAtReset : Obligations.InvariantHoldsAtReset := ⟨rfl, nofun, nofun⟩

/-- Settles O54: by the event the step takes; a request is answered out of reset only, with a formed response. -/
theorem stepKeepsInvariant : Obligations.StepKeepsInvariant := by
  intro s t hinv h
  cases hinbox : s.inbox with
  | nil =>
    obtain rfl := Host.Outcome.next.inj ((step_idle hinbox).symm.trans h)
    exact hinv
  | cons e rest =>
    cases e with
    | request w a =>
      rcases Bool.eq_false_or_eq_true s.inReset with hr | hr
      · cases (step_request_inReset hinbox hr).symm.trans h
      · rw [step_request hinbox hr] at h
        exact stateInv_of_runRequest (s := { s with inbox := rest }) hr h
    | resetAssert =>
      obtain rfl := Host.Outcome.next.inj ((step_resetAssert hinbox).symm.trans h)
      exact ⟨rfl, fun _ => ⟨rfl, rfl, rfl⟩, nofun⟩
    | resetRelease =>
      obtain rfl := Host.Outcome.next.inj ((step_resetRelease hinbox).symm.trans h)
      exact ⟨hinv.bufferDropped, nofun, hinv.responseFormed⟩

end Sys2Proof.Machine
end

section
/-! SUPPORT. The algebra of the CRC (40_crc16.md R45, R46, R52): its shift is linear and injective, the table step is eight
shifts, and the value is a polynomial remainder over GF(2). -/

open Sys2Proof.Stmt

namespace Sys2Proof.Machine

/-! ## The shift (R45) -/

theorem crcShift_of_msb {c : Half} (h : c.msb = true) : crcShift c = (c <<< 1) ^^^ poly := if_pos h

theorem crcShift_of_not_msb {c : Half} (h : c.msb = false) : crcShift c = c <<< 1 := by simp [crcShift, h]

/-- Adding the polynomial once for each top bit adds it for the sum of the top bits. -/
theorem crcShift_xor (c d : Half) : crcShift (c ^^^ d) = crcShift c ^^^ crcShift d := by
  rw [crcShift, crcShift, crcShift, BitVec.msb_xor, BitVec.shiftLeft_xor_distrib]
  cases c.msb <;> cases d.msb
  · simp
  · simp [BitVec.xor_assoc]
  · simp [BitVec.xor_assoc, BitVec.xor_comm poly]
  · have hcancel : c <<< 1 ^^^ poly ^^^ (d <<< 1 ^^^ poly) = c <<< 1 ^^^ d <<< 1 ^^^ (poly ^^^ poly) := by ac_rfl
    simp [hcancel]

/-- The eight shifts of a byte. -/
def crcShift8 (c : Half) : Half := Nat.repeat crcShift 8 c

theorem repeat_crcShift_xor (n : Nat) (c d : Half) :
    Nat.repeat crcShift n (c ^^^ d) = Nat.repeat crcShift n c ^^^ Nat.repeat crcShift n d := by
  induction n with
  | zero => rfl
  | succ n ih => simp only [Nat.repeat, ih, crcShift_xor]

theorem crcShift8_xor (c d : Half) : crcShift8 (c ^^^ d) = crcShift8 c ^^^ crcShift8 d := repeat_crcShift_xor 8 c d

theorem crcBit8_eq (c : Half) (b : Byte) : crcBit8 c b = crcShift8 (c ^^^ (b.setWidth 16 <<< 8)) := rfl

/-- Eight shifts of a register whose upper byte is 0 move its lower byte up. -/
theorem crcShift8_setWidth (b : Byte) : crcShift8 (b.setWidth 16) = b.setWidth 16 <<< 8 := by
  revert b
  decide

/-- A register value from its two bytes. -/
theorem xor_bytes (c : Half) :
    c = ((c.extractLsb' 8 8).setWidth 16 <<< 8) ^^^ (c.extractLsb' 0 8).setWidth 16 := by
  apply BitVec.eq_of_getLsbD_eq
  intro i hi
  by_cases h8 : i < 8
  · simp [h8, hi]
  · simp [h8, hi, show i - 8 < 8 by omega, show 8 + (i - 8) = i by omega]

theorem shiftLeft_eight (c : Half) : c <<< 8 = (c.extractLsb' 0 8).setWidth 16 <<< 8 := by
  apply BitVec.eq_of_getLsbD_eq
  intro i hi
  by_cases h8 : i < 8
  · simp [h8]
  · simp [h8, hi, show i - 8 < 8 by omega, BitVec.getLsbD_eq_getElem (show i - 8 < 16 by omega)]

/-- The upper byte and the data byte choose the table entry; the lower byte only moves up. -/
theorem crcStep_eq_crcBit8 (c : Half) (b : Byte) : crcStep c b = crcBit8 c b := by
  have hupper : c ^^^ (b.setWidth 16 <<< 8) =
      (c.extractLsb' 0 8).setWidth 16 ^^^ ((c.extractLsb' 8 8 ^^^ b).setWidth 16 <<< 8) := by
    conv_lhs => rw [xor_bytes c]
    rw [BitVec.setWidth_xor, BitVec.shiftLeft_xor_distrib]
    ac_rfl
  calc crcStep c b
      _ = c <<< 8 ^^^ crcShift8 ((c.extractLsb' 8 8 ^^^ b).setWidth 16 <<< 8) := by
        rw [crcStep, crcTable, crcBit8_eq]
        exact congrArg (fun d => c <<< 8 ^^^ crcShift8 d) BitVec.zero_xor
      _ = crcShift8 (c ^^^ (b.setWidth 16 <<< 8)) := by
        rw [hupper, crcShift8_xor, crcShift8_setWidth, ← shiftLeft_eight]

/-- Settles O14: by linearity of the shift. -/
theorem tableStepIsBitStep : Obligations.TableStepIsBitStep := crcStep_eq_crcBit8

/-! ## The laws (R52) -/

theorem crcStep_xor (c d : Half) (a b : Byte) : crcStep (c ^^^ d) (a ^^^ b) = crcStep c a ^^^ crcStep d b := by
  simp only [crcStep_eq_crcBit8, crcBit8_eq, ← crcShift8_xor, BitVec.setWidth_xor, BitVec.shiftLeft_xor_distrib]
  congr 1
  ac_rfl

/-- The CRC is linear over sequences of equal length, the start values included. -/
theorem crc16From_zipWith_xor {s t : Bytes} (h : s.length = t.length) (c d : Half) :
    crc16From (List.zipWith (· ^^^ ·) s t) (c ^^^ d) = crc16From s c ^^^ crc16From t d := by
  induction s generalizing t c d with
  | nil =>
    obtain rfl := List.length_eq_zero_iff.mp h.symm
    simp
  | cons a s ih =>
    cases t with
    | nil => cases h
    | cons b t =>
      rw [List.zipWith_cons_cons, crc16From_cons, crcStep_xor, ih (Nat.succ.inj h)]
      rfl

/-- A data byte equal to the upper byte of the register cancels it. -/
theorem crcStep_upper (c : Half) : crcStep c (c.extractLsb' 8 8) = c <<< 8 := by
  rw [crcStep, BitVec.xor_self, show crcTable 0#8 = 0 by decide]
  exact BitVec.xor_zero

/-- Two steps on a register's own bytes, high byte first, empty it. -/
theorem crc16From_own_bytes (c : Half) : crc16From [c.extractLsb' 8 8, c.extractLsb' 0 8] c = 0x0000 := by
  have hlow : c.extractLsb' 0 8 = (c <<< 8).extractLsb' 8 8 := by
    apply BitVec.eq_of_getLsbD_eq
    intro i hi
    simp [hi, show 8 + i < 16 by omega, BitVec.getLsbD_eq_getElem (show i < 16 by omega)]
  have hout : c <<< 8 <<< 8 = 0x0000 := by
    rw [← BitVec.shiftLeft_add]
    exact BitVec.shiftLeft_eq_zero (by decide)
  rw [crc16From_cons, crcStep_upper, hlow, crc16From_cons, crcStep_upper, crc16From_nil, hout]

/-- Settles O15: linearity, continuation, and the residue of a register's own bytes. -/
theorem crcLaws : Obligations.CrcLaws := by
  refine ⟨crc16_nil, fun s t => crc16From_append s t _, ?_, ?_, ?_, by decide⟩
  · intro s t h
    exact crc16From_zipWith_xor h 0x0000 0x0000
  · intro b
    rw [crc16, crc16From_cons, crc16From_nil, crcStep_eq_crcBit8]
    rfl
  · intro s
    rw [crc16, crc16From_append]
    exact crc16From_own_bytes _

/-! ## The shift loses nothing -/

theorem crcShift_eq_zero {c : Half} (h : crcShift c = 0x0000) : c = 0x0000 := by
  cases hmsb : c.msb with
  | true =>
    rw [crcShift_of_msb hmsb] at h
    have hbit := congrArg (·.getLsbD 0) h
    simp [poly] at hbit
  | false =>
    rw [crcShift_of_not_msb hmsb] at h
    apply BitVec.eq_of_getLsbD_eq
    intro i hi
    by_cases htop : i = 15
    · subst htop
      simpa [BitVec.msb_eq_getLsbD_last] using hmsb
    · have hbit := congrArg (·.getLsbD (i + 1)) h
      simpa [show i + 1 < 16 by omega, BitVec.getLsbD_eq_getElem hi] using hbit

theorem crcShift_injective : Function.Injective crcShift := by
  intro c d h
  have hzero : crcShift (c ^^^ d) = 0x0000 := by rw [crcShift_xor, h, BitVec.xor_self]; rfl
  exact BitVec.xor_eq_zero_iff.mp (crcShift_eq_zero hzero)

theorem repeat_crcShift_injective (n : Nat) : Function.Injective (Nat.repeat crcShift n) := by
  induction n with
  | zero => exact fun _ _ h => h
  | succ n ih => exact crcShift_injective.comp ih

theorem crcShift8_injective : Function.Injective crcShift8 := repeat_crcShift_injective 8

theorem crcStep_left_injective (b : Byte) : Function.Injective (crcStep · b) := by
  intro c d h
  simp only [crcStep_eq_crcBit8, crcBit8_eq] at h
  exact (BitVec.xor_left_inj _).mp (crcShift8_injective h)

theorem crcStep_right_injective (c : Half) : Function.Injective (crcStep c) := by
  intro a b h
  simp only [crcStep_eq_crcBit8, crcBit8_eq] at h
  have hshift := (BitVec.xor_right_inj _).mp (crcShift8_injective h)
  apply BitVec.eq_of_getLsbD_eq
  intro i hi
  have hbit := congrArg (·.getLsbD (8 + i)) hshift
  simpa [show 8 + i < 16 by omega, hi, BitVec.getLsbD_eq_getElem hi] using hbit

theorem crc16From_injective (s : Bytes) : Function.Injective (crc16From s) := by
  induction s with
  | nil => simp [Function.Injective]
  | cons b s ih => exact ih.comp (crcStep_left_injective b)

/-- Sequences that differ in one byte have different CRCs. -/
theorem crc16_ne_of_byte_ne {a b : Byte} (h : a ≠ b) (x y : Bytes) : crc16 (x ++ a :: y) ≠ crc16 (x ++ b :: y) := by
  rw [crc16, crc16, crc16From_append, crc16From_append, crc16From_cons, crc16From_cons]
  exact fun heq => h (crcStep_right_injective _ (crc16From_injective y heq))

/-! ## Polynomials over GF(2) (R45, R52) -/

open Polynomial

theorem bitsPoly_xor {n : Nat} (v w : BitVec n) : bitsPoly (v ^^^ w) = bitsPoly v + bitsPoly w := by
  rw [bitsPoly, bitsPoly, bitsPoly, ← Finset.sum_add_distrib]
  refine Finset.sum_congr rfl fun i _ => ?_
  rw [BitVec.getLsbD_xor]
  cases v.getLsbD i <;> cases w.getLsbD i <;> simp [CharTwo.add_self_eq_zero]

/-- Multiplication by x: the top bit becomes x^16. -/
theorem bitsPoly_shiftLeft_one (c : Half) :
    X * bitsPoly c = bitsPoly (c <<< 1) + if c.msb then X ^ 16 else 0 := by
  rw [bitsPoly, bitsPoly, Finset.sum_range_succ, Finset.sum_range_succ' _ 15, mul_add, Finset.mul_sum]
  have hterm : ∀ i ∈ Finset.range 15, (X : (ZMod 2)[X]) * (if c.getLsbD i then X ^ i else 0) =
      if (c <<< 1).getLsbD (i + 1) then X ^ (i + 1) else 0 := by
    intro i hi
    have hlt : i + 1 < 16 := Nat.add_lt_add_right (Finset.mem_range.mp hi) 1
    simp [hlt, pow_succ', BitVec.getLsbD_eq_getElem (show i < 16 by omega)]
  rw [Finset.sum_congr rfl hterm]
  simp [BitVec.msb_eq_getLsbD_last, ← pow_succ']

/-- A byte at the top of the register. -/
theorem bitsPoly_upper (b : Byte) : bitsPoly (b.setWidth 16 <<< 8) = bitsPoly b * X ^ 8 := by
  rw [bitsPoly, bitsPoly, show 16 = 8 + 8 from rfl, Finset.sum_range_add, Finset.sum_mul]
  have hlow : ∑ i ∈ Finset.range 8, (if (b.setWidth 16 <<< 8).getLsbD i then (X : (ZMod 2)[X]) ^ i else 0) = 0 :=
    Finset.sum_eq_zero fun i hi => by simp [Finset.mem_range.mp hi]
  rw [hlow, zero_add]
  refine Finset.sum_congr rfl fun i hi => ?_
  have hi := Finset.mem_range.mp hi
  simp [show 8 + i < 16 by omega, pow_add, mul_comm, BitVec.getLsbD_eq_getElem hi]

theorem bitsPoly_poly : bitsPoly poly = X ^ 12 + X ^ 5 + 1 := by
  simp [bitsPoly, poly, Finset.sum_range_succ]
  ring

theorem messagePoly_append_singleton (s : Bytes) (b : Byte) :
    messagePoly (s ++ [b]) = messagePoly s * X ^ 8 + bitsPoly b := by
  rw [messagePoly, List.foldl_append]
  rfl

/-- The residue of a polynomial modulo the generator. -/
noncomputable abbrev residue : (ZMod 2)[X] →+* AdjoinRoot generatorPoly := AdjoinRoot.mk generatorPoly

theorem residue_X_pow_sixteen : residue (X ^ 16) = residue (bitsPoly poly) := by
  rw [AdjoinRoot.mk_eq_mk, bitsPoly_poly, CharTwo.sub_eq_add, generatorPoly]
  exact dvd_of_eq (by ring)

/-- One shift multiplies by x modulo the generator. -/
theorem residue_crcShift (c : Half) : residue (bitsPoly (crcShift c)) = residue (X * bitsPoly c) := by
  rw [bitsPoly_shiftLeft_one]
  cases hmsb : c.msb with
  | true =>
    rw [crcShift_of_msb hmsb, bitsPoly_xor, if_pos rfl, map_add, map_add, residue_X_pow_sixteen]
  | false =>
    rw [crcShift_of_not_msb hmsb, if_neg (by decide), add_zero]

theorem residue_repeat_crcShift (n : Nat) (c : Half) :
    residue (bitsPoly (Nat.repeat crcShift n c)) = residue (X ^ n * bitsPoly c) := by
  induction n with
  | zero => simp [Nat.repeat]
  | succ n ih => rw [Nat.repeat, residue_crcShift, map_mul, ih, ← map_mul, pow_succ', mul_assoc]

/-- One byte: the register moves up by 8, and the byte enters above x^16. -/
theorem residue_crcStep (c : Half) (b : Byte) :
    residue (bitsPoly (crcStep c b)) = residue (bitsPoly c * X ^ 8 + bitsPoly b * X ^ 16) := by
  rw [crcStep_eq_crcBit8, crcBit8, residue_repeat_crcShift, bitsPoly_xor, bitsPoly_upper]
  congr 1
  ring

theorem residue_crc16 (s : Bytes) : residue (bitsPoly (crc16 s)) = residue (messagePoly s * X ^ 16) := by
  induction s using List.reverseRecOn with
  | nil => simp [crc16_nil, messagePoly, bitsPoly]
  | append_singleton s b ih =>
    have hstep : crc16 (s ++ [b]) = crcStep (crc16 s) b := by
      rw [crc16, crc16From_append, crc16From_cons, crc16From_nil, ← crc16]
    rw [hstep, residue_crcStep, messagePoly_append_singleton, map_add, map_mul, ih, ← map_mul, ← map_add]
    congr 1
    ring

theorem degree_bitsPoly_lt {n : Nat} (v : BitVec n) : (bitsPoly v).degree < n := by
  refine mem_degreeLT.mp (Submodule.sum_mem _ fun i hi => mem_degreeLT.mpr ?_)
  split
  · exact (degree_X_pow_le i).trans_lt (Nat.cast_lt.mpr (Finset.mem_range.mp hi))
  · exact degree_zero.trans_lt (WithBot.bot_lt_coe n)

/-- Settles O16: the register is congruent to the message, and its degree is below 16. -/
theorem crcIsPolynomialRemainder : Obligations.CrcIsPolynomialRemainder := by
  intro s
  have hmonic : generatorPoly.Monic := by
    unfold generatorPoly
    monicity!
  have hdegree : generatorPoly.degree = 16 := by
    unfold generatorPoly
    compute_degree!
  have hdvd := AdjoinRoot.mk_eq_mk.mp (residue_crc16 s)
  rw [← modByMonic_eq_of_dvd_sub hmonic hdvd, (modByMonic_eq_self_iff hmonic).mpr]
  rw [hdegree]
  exact degree_bitsPoly_lt (crc16 s)

end Sys2Proof.Machine
end

section
/-! SUPPORT. Streaming (40_crc16.md R49 to R51, 41_cipher.md R58, R59): the requests of one streaming operation, over any
list of buffers, leave the registers as one request over the concatenation would. -/

open Sys2Proof.Stmt

namespace Sys2Proof.Machine

/-! ## A list of requests of one operation -/

/-- The two registers. -/
abbrev Registers := Half × BitVec 4

/-- The state whose registers are x, at the response port q, with these events to come. -/
def State.withRegisters (s : State) (x : Registers) (q : Option Response) (rest : List HostEvent) : State :=
  { s with crcAcc := x.1, ksIdx := x.2, response := q, inbox := rest }

/-- The word w asks for an operation that takes the registers by f, over a readable buffer. -/
def Streams (w : Word) (f : Bytes → Registers → Registers) : Prop :=
  ∀ s a rest, requested s w a rest → a.length ≤ s.params.maxBuf.toNat →
    ∃ r, step s = .next (answer { s with inbox := rest } (f a (s.crcAcc, s.ksIdx)).1 (f a (s.crcAcc, s.ksIdx)).2 r)

/-- Where f takes a concatenation part by part, so do the requests: the registers end as f of the whole. -/
theorem run_stream {w : Word} {f : Bytes → Registers → Registers} (hstream : Streams w f) (hnil : ∀ x, f [] x = x)
    (happend : ∀ a b x, f (a ++ b) x = f b (f a x)) (k : Nat) (rest : List HostEvent) (chunks : List Bytes) {s : State}
    (hreset : s.inReset = false) (hA : s.inA = []) (hlen : ∀ c ∈ chunks, c.length ≤ s.params.maxBuf.toNat)
    (hinbox : s.inbox = chunks.map (HostEvent.request w) ++ rest) :
    ∃ q, core.run (chunks.length + k) s =
      core.run k (s.withRegisters (f chunks.flatten (s.crcAcc, s.ksIdx)) q rest) := by
  induction chunks generalizing s with
  | nil =>
    obtain rfl : s.inbox = rest := hinbox
    refine ⟨s.response, ?_⟩
    rw [List.flatten_nil, hnil, List.length_nil, Nat.zero_add]
    rfl
  | cons c chunks ih =>
    obtain ⟨hc, hchunks⟩ := List.forall_mem_cons.mp hlen
    obtain ⟨r, hstep⟩ := hstream s c _ ⟨hinbox, hreset⟩ hc
    obtain ⟨q, hrun⟩ := ih (s := answer { s with inbox := chunks.map (HostEvent.request w) ++ rest }
      (f c (s.crcAcc, s.ksIdx)).1 (f c (s.crcAcc, s.ksIdx)).2 r) hreset rfl
      hchunks rfl
    refine ⟨q, ?_⟩
    rw [List.length_cons, Nat.add_right_comm, List.flatten_cons, happend]
    refine (run_succ _ hstep).trans (hrun.trans ?_)
    simp only [State.withRegisters, answer, hA]

/-! ## The streaming CRC -/

theorem streams_crcFeed : Streams 0x00000004 fun a x => (crc16From a x.1, x.2) := fun _ _ _ h hlen =>
  ⟨_, step_of_requested h (decode_encode .crcFeed) (execCrcFeed_of_le hlen)⟩

/-- Settles O17: the feeds continue one CRC from CRC_INIT's 0, and CRC_READ reads it out. -/
theorem streamedCrcIsBufferCrc : Obligations.StreamedCrcIsBufferCrc := by
  intro s chunks rest hreset hlen hinbox
  obtain ⟨q, hrun⟩ := run_stream streams_crcFeed (fun x => by rw [crc16From_nil]) (fun a b x => by rw [crc16From_append])
    1 (.request 0x00000005 [] :: rest) chunks (s := answer { s with inbox := _ } 0x0000 s.ksIdx { status := .ok })
    hreset rfl hlen rfl
  exact (run_crcInit (chunks.length + 1) ⟨hinbox, hreset⟩).trans (hrun.trans (run_crcRead 0 ⟨rfl, hreset⟩))

/-! ## The streaming cipher -/

theorem ksAdvance_zero (k : BitVec 4) : ksAdvance k 0 = k := ksAdvance_of_dvd (dvd_zero 16)

theorem ksAdvance_add (k : BitVec 4) (m n : Nat) : ksAdvance k (m + n) = ksAdvance (ksAdvance k m) n := by
  apply BitVec.eq_of_toNat_eq
  simp only [toNat_ksAdvance]
  omega

theorem streams_ksXor : Streams 0x00000012 fun a x => (x.1, ksAdvance x.2 a.length) := fun _ _ _ h hlen =>
  ⟨_, step_ksXor h hlen⟩

/-- Settles O22: the buffers before the last one move KS_IDX to where its part of the keystream begins. -/
theorem streamedCipherIsBufferCipher : Obligations.StreamedCipherIsBufferCipher := by
  intro s chunks last rest hreset hlen hlast hinbox
  obtain ⟨q, hrun⟩ := run_stream streams_ksXor (fun x => by rw [List.length_nil, ksAdvance_zero])
    (fun a b x => by rw [List.length_append, ksAdvance_add]) 1 (.request 0x00000012 last :: rest) chunks
    (s := answer { s with inbox := _ } s.crcAcc 0 { status := .ok }) hreset rfl hlen rfl
  have hpart : xork s.params.key last (ksAdvance 0 chunks.flatten.length).toNat =
      (xork s.params.key (chunks.flatten ++ last) 0).drop chunks.flatten.length := by
    rw [show (0 : Nat) = (0 : BitVec 4).toNat from rfl, xork_append_ksAdvance, List.drop_left' (length_xork ..)]
  refine ⟨_, (run_succ (chunks.length + 1) (step_ksInit ⟨hinbox, hreset⟩)).trans
    (hrun.trans (run_succ 0 (step_ksXor ⟨rfl, hreset⟩ hlast))), rfl, rfl, rfl, ?_, ?_⟩
  · simp [answer, State.withRegisters]
  · rw [← hpart]
    rfl

end Sys2Proof.Machine
end

section
/-! SUPPORT. Sound and damaged frames (42_frame_codec.md R60 to R65): the frame around a plaintext, what one altered byte does
to it, and the frame that a decode came from. -/

open Sys2Proof.Stmt

namespace Sys2Proof.Machine

/-! ## Slices and fields put together again -/

theorem slice_append_slice (s : Bytes) {a b c : Nat} (hab : a ≤ b) (hbc : b ≤ c) :
    slice s a b ++ slice s b c = slice s a c := by
  have htake : s.take b = (s.take c).take b := by rw [List.take_take, Nat.min_eq_left hbc]
  have hdrop : slice s b c = ((s.take c).drop a).drop (b - a) := by
    rw [slice, List.drop_drop, Nat.add_sub_cancel' hab]
  rw [hdrop, slice, htake, List.drop_take, List.take_append_drop, slice]

theorem slice_two {s : Bytes} {i : Nat} (h : i + 1 < s.length) :
    slice s i (i + 2) = [s.getD i 0, s.getD (i + 1) 0] := by
  have hi : i < (s.take (i + 2)).length := by rw [List.length_take]; omega
  have hi' : i + 1 < (s.take (i + 2)).length := by rw [List.length_take]; omega
  rw [slice, List.drop_eq_getElem_cons hi, List.drop_eq_getElem_cons hi', List.drop_of_length_le (by simp)]
  simp [h, Nat.lt_of_succ_lt h]

/-- `le16` writes back what `rd16` read. -/
theorem le16_rd16 {s : Bytes} {i : Nat} (h : i + 1 < s.length) : le16 (rd16 s i) = slice s i (i + 2) := by
  have h0 := (s.getD i 0).isLt
  have h1 := (s.getD (i + 1) 0).isLt
  have hlow : (rd16 s i).extractLsb' 0 8 = s.getD i 0 := by
    apply BitVec.eq_of_toNat_eq
    rw [BitVec.extractLsb'_toNat, rd16_toNat, Nat.shiftRight_zero]
    omega
  have hhigh : (rd16 s i).extractLsb' 8 8 = s.getD (i + 1) 0 := by
    apply BitVec.eq_of_toNat_eq
    rw [BitVec.extractLsb'_toNat, rd16_toNat, Nat.shiftRight_eq_div_pow]
    omega
  rw [le16, hlow, hhigh, slice_two h]

theorem xor_ne_self (b : Byte) {d : Byte} (h : d ≠ 0) : b ^^^ d ≠ b := fun heq =>
  h ((BitVec.xor_right_inj b).mp (heq.trans BitVec.xor_zero.symm))

/-! ## The frame around a plaintext (R36) -/

/-- The frame with length field n whose ciphered part deciphers to p. -/
def frameOf (key : Vector Byte 16) (n : Nat) (p : Bytes) : Bytes :=
  markLead ++ le16 (len16 n) ++ xork key p 0 ++ markTrail

theorem frameAround_eq_frameOf (key : Vector Byte 16) (inner : Bytes) :
    frameAround key inner = frameOf key inner.length (inner ++ le16 (crc16 inner)) := rfl

section
variable (key : Vector Byte 16) {n : Nat} {p : Bytes}

theorem length_frameOf : (frameOf key n p).length = p.length + 6 := by
  simp only [frameOf, List.length_append, length_markLead, length_markTrail, length_le16, length_xork]
  omega

/-- Its check needs no sound plaintext. -/
theorem frameCheck_frameOf (hp : p.length = n + 2) (hmin : 4 ≤ n) (hmax : n < 65536) :
    frameCheck (frameOf key n p) = .ok n := by
  have hmark : bothMarkers (frameOf key n p) :=
    ⟨le16 (len16 n) ++ xork key p 0, by simp [frameOf, markLead, markTrail]⟩
  have hfield : lengthField (frameOf key n p) = n := by
    have hrd : rd16 (frameOf key n p) 2 = len16 n := by
      rw [frameOf, List.append_assoc, List.append_assoc]
      exact (rd16_append markLead _ 0).trans (rd16_le16 _ _)
    rw [lengthField_eq_rd16, hrd, toNat_len16 hmax]
  rw [frameCheck_of_lengthField hmark (by rw [hfield, length_frameOf]; omega) (hfield.symm ▸ hmin), hfield]

theorem framePlain_frameOf : framePlain key (frameOf key n p) = p := by
  have hmiddle : slice (frameOf key n p) 4 (4 + (xork key p 0).length) = xork key p 0 :=
    slice_middle (markLead ++ le16 (len16 n)) _ markTrail
  rw [length_xork] at hmiddle
  rw [framePlain, length_frameOf, show p.length + 6 - 2 = 4 + p.length by omega, hmiddle, xork_xork]

/-- Every buffer that passes the check is the frame around its own plaintext. -/
theorem eq_frameOf_of_frameCheck {a : Bytes} (h : frameCheck a = .ok n) : a = frameOf key n (framePlain key a) := by
  obtain ⟨hpass, rfl⟩ := frameCheck_eq_ok_iff.mp h
  simp only [failsFrameCheck, not_or, not_not] at hpass
  obtain ⟨hmark, hmin, hlen, -⟩ := hpass
  obtain ⟨-, hlead, htrail⟩ := bothMarkers_iff_slices.mp hmark
  have hfield : le16 (len16 (lengthField a)) = slice a 2 4 := by
    rw [lengthField_eq_rd16, len16, BitVec.ofNat_toNat, BitVec.setWidth_eq, le16_rd16 (by omega)]
  have hcipher : xork key (framePlain key a) 0 = slice a 4 (a.length - 2) := by rw [framePlain, xork_xork]
  rw [frameOf, hfield, hcipher, ← hlead, ← htrail, slice_append_slice a (by omega) (by omega),
    slice_append_slice a (by omega) (by omega), slice_append_slice a (by omega) (by omega), slice_all, List.drop_zero]

theorem four_le_of_frameCheck {a : Bytes} {n : Nat} (h : frameCheck a = .ok n) : 4 ≤ n := by
  obtain ⟨hpass, rfl⟩ := frameCheck_eq_ok_iff.mp h
  simp only [failsFrameCheck, not_or] at hpass
  omega

/-- What the check says of the length (R62). -/
theorem length_of_frameCheck {a : Bytes} {n : Nat} (h : frameCheck a = .ok n) : n + 8 = a.length ∧ n < 65536 := by
  obtain ⟨hpass, rfl⟩ := frameCheck_eq_ok_iff.mp h
  simp only [failsFrameCheck, not_or, not_not] at hpass
  obtain ⟨-, -, hlen, -⟩ := hpass
  exact ⟨hlen, lengthField_eq_rd16 a ▸ (rd16 a 2).isLt⟩

/-- The length of the plaintext is the length field and the two bytes of the CRC. -/
theorem length_framePlain_of_frameCheck {a : Bytes} (h : frameCheck a = .ok n) : (framePlain key a).length = n + 2 := by
  obtain ⟨hpass, rfl⟩ := frameCheck_eq_ok_iff.mp h
  simp only [failsFrameCheck, not_or, not_not] at hpass
  obtain ⟨-, -, hlen, -⟩ := hpass
  rw [framePlain, length_xork, length_slice]
  omega

end

/-! ## The frame that a decode came from -/

/-- An inner block whose length field is right is built from its command type and its body. -/
theorem eq_innerBlock {inner : Bytes} (hmin : 4 ≤ inner.length) (hblen : (rd16 inner 2).toNat = inner.length - 4) :
    innerBlock (rd16 inner 0) (slice inner 4 inner.length) = inner := by
  have hfield : len16 (slice inner 4 inner.length).length = rd16 inner 2 := by
    rw [length_slice, Nat.min_self, ← hblen, len16, BitVec.ofNat_toNat, BitVec.setWidth_eq]
  rw [innerBlock, hfield, le16_rd16 (by omega), le16_rd16 (by omega), slice_append_slice inner (by omega) (by omega),
    slice_append_slice inner (by omega) hmin, slice_all, List.drop_zero]

/-- A plaintext whose CRC field is right is its inner block and that block's CRC. -/
theorem eq_append_crc {p : Bytes} {n : Nat} (hp : p.length = n + 2) (hcrc : rd16 p n = crc16 (slice p 0 n)) :
    slice p 0 n ++ le16 (crc16 (slice p 0 n)) = p := by
  rw [← hcrc, le16_rd16 (by omega), slice_append_slice p (by omega) (by omega), ← hp, slice_all, List.drop_zero]

theorem decodeFlags_eq_three {crcOk blenOk : Bool} (h : decodeFlags crcOk blenOk = 0x03) :
    crcOk = true ∧ blenOk = true := by
  revert crcOk blenOk
  decide

theorem setWidth_zext32 (v : Half) : (zext32 v).setWidth 16 = v := by
  apply BitVec.eq_of_toNat_eq
  rw [BitVec.toNat_setWidth, toNat_zext32, Nat.mod_eq_of_lt v.isLt]

/-- A decode with both flags set came from the frame of its command type and body. -/
theorem frameEncode_of_decodedResponse (key : Vector Byte 16) {a : Bytes} {n : Nat} (hcheck : frameCheck a = .ok n)
    (hflags : (decodedResponse (framePlain key a) n).flags = 0x03) :
    frameEncode key ((decodedResponse (framePlain key a) n).v0.setWidth 16) (decodedResponse (framePlain key a) n).out =
      a := by
  obtain ⟨hcrc, hblen⟩ := decodeFlags_eq_three hflags
  have hp := length_framePlain_of_frameCheck key hcheck
  have hframe := eq_frameOf_of_frameCheck key hcheck
  have hmin : 4 ≤ n := four_le_of_frameCheck hcheck
  generalize framePlain key a = p at *
  have hlen : (slice p 0 n).length = n := by rw [length_slice]; omega
  have hinner := eq_innerBlock (inner := slice p 0 n) (hlen.symm ▸ hmin) (by rw [hlen]; exact eq_of_beq hblen)
  rw [hlen] at hinner
  calc frameEncode key ((zext32 (rd16 (slice p 0 n) 0)).setWidth 16) (slice (slice p 0 n) 4 n)
      _ = frameAround key (slice p 0 n) := by rw [setWidth_zext32, frameEncode, hinner]
      _ = frameOf key n p := by rw [frameAround_eq_frameOf, eq_append_crc hp (eq_of_beq hcrc), hlen]
      _ = a := hframe.symm

/-- Settles O28: a sound decode came from the frame of what it decoded, which FRAME_ENC builds again. -/
theorem soundFrameIsEncoded : Obligations.SoundFrameIsEncoded := by
  intro s t u r hread hexec hr hok hflags hparams hA
  rw [readable] at hread
  cases hcheck : frameCheck s.inA with
  | error reason =>
    obtain rfl := Host.Outcome.next.inj ((execFrameDec_of_error hread hcheck).symm.trans hexec)
    obtain rfl := Option.some.inj hr
    cases hok
  | ok n =>
    obtain rfl := Host.Outcome.next.inj ((execFrameDec_of_ok hread hcheck).symm.trans hexec)
    obtain rfl := Option.some.inj hr
    have hbody : u.inA.length ≤ n - 4 := by
      rw [hA, decodedResponse, length_slice]
      omega
    obtain ⟨hlen, hmax⟩ := length_of_frameCheck hcheck
    refine ⟨_, execFrameEnc_of_le _ (by rw [hparams]; omega) (by rw [maxBody]; omega), rfl, ?_⟩
    rw [hparams, hA]
    exact frameEncode_of_decodedResponse s.params.key hcheck hflags

/-! ## One altered byte -/

section
variable {α : Type} (l r : List α) (f : α → α)

theorem modify_append_of_lt {i : Nat} (h : i < l.length) : (l ++ r).modify i f = l.modify i f ++ r := by
  induction l generalizing i with
  | nil => cases h
  | cons a l ih =>
    cases i with
    | zero => rfl
    | succ i => simp [ih (Nat.lt_of_succ_lt_succ h)]

theorem modify_append_length_add (i : Nat) : (l ++ r).modify (l.length + i) f = l ++ r.modify i f := by
  induction l with
  | nil => simp
  | cons a l ih => simp [Nat.add_right_comm, ih]

end

/-- The cipher moves a change of one byte to the same place in the plaintext. -/
theorem xork_modify (key : Vector Byte 16) (p : Bytes) (k0 j : Nat) (d : Byte) :
    (xork key p k0).modify j (· ^^^ d) = xork key (p.modify j (· ^^^ d)) k0 := by
  apply List.ext_getElem (by simp)
  intro i _ _
  simp only [List.getElem_modify, getElem_xork]
  split
  · ac_rfl
  · rfl

theorem frameOf_modify (key : Vector Byte 16) (n : Nat) {p : Bytes} {j : Nat} (h : j < p.length) (d : Byte) :
    (frameOf key n p).modify (4 + j) (· ^^^ d) = frameOf key n (p.modify j (· ^^^ d)) := by
  have hhead : (markLead ++ le16 (len16 n)).length = 4 := rfl
  have hpart : 4 + j < (markLead ++ le16 (len16 n) ++ xork key p 0).length := by
    rw [List.length_append, length_xork, hhead]
    omega
  rw [frameOf, modify_append_of_lt _ _ _ hpart, ← hhead, modify_append_length_add, xork_modify, frameOf]

/-- A changed byte of an inner block and its CRC parts the two, wherever it stands. -/
theorem rd16_ne_crc16_of_modify (inner : Bytes) {j : Nat} {d : Byte} (hj : j < inner.length + 2) (hd : d ≠ 0)
    {p : Bytes} (hp : p = (inner ++ le16 (crc16 inner)).modify j (· ^^^ d)) :
    rd16 p inner.length ≠ crc16 (slice p 0 inner.length) := by
  rcases Nat.lt_or_ge j inner.length with hinner | hcrc
  · rw [modify_append_of_lt _ _ _ hinner] at hp
    obtain ⟨x, b, y, horig, -, hmod⟩ := List.exists_of_modify (· ^^^ d) hinner
    have hlen : (inner.modify j (· ^^^ d)).length = inner.length := List.length_modify ..
    have hfield : rd16 p inner.length = crc16 inner := by
      rw [hp, ← hlen]
      exact (rd16_append _ _ 0).trans (rd16_le16 _ [])
    have hblock : slice p 0 inner.length = inner.modify j (· ^^^ d) := by
      rw [hp, slice_append_left hlen.ge, ← hlen, slice_all, List.drop_zero]
    rw [hfield, hblock, hmod, horig]
    exact crc16_ne_of_byte_ne (xor_ne_self b hd).symm x y
  · obtain ⟨i, rfl⟩ := Nat.exists_eq_add_of_le hcrc
    have hi : i < (le16 (crc16 inner)).length := Nat.lt_of_add_lt_add_left hj
    rw [modify_append_length_add] at hp
    obtain ⟨x, b, y, horig, -, hmod⟩ := List.exists_of_modify (· ^^^ d) hi
    have hblock : slice p 0 inner.length = inner := by
      rw [hp, slice_append_left le_rfl, slice_all, List.drop_zero]
    have hfield : rd16 p inner.length = rd16 (x ++ (b ^^^ d) :: y) 0 := by
      rw [hp, hmod]
      exact rd16_append inner _ 0
    rw [hfield, hblock]
    intro heq
    have hbytes : le16 (crc16 inner) = x ++ (b ^^^ d) :: y := by
      have hlen : (x ++ (b ^^^ d) :: y).length = 2 := by
        rw [← hmod, List.length_modify, length_le16]
      rw [← heq, le16_rd16 (by omega), Nat.zero_add, ← hlen, slice_all, List.drop_zero]
    have hb := List.append_cancel_left (horig.symm.trans hbytes)
    exact xor_ne_self b hd (List.cons.inj hb).1.symm

/-- Settles O29: the change leaves the check as it was, and parts the inner block from its CRC. -/
theorem oneByteErrorClearsCrcOk : Obligations.OneByteErrorClearsCrcOk := by
  intro ct body o d s hbody hlow hhigh hd hA hread
  obtain ⟨j, rfl⟩ := Nat.exists_eq_add_of_le hlow
  have hlen := length_innerBlock ct body
  have hj : j < (innerBlock ct body).length + 2 := by omega
  have hframe : s.inA = frameOf s.params.key (innerBlock ct body).length
      ((innerBlock ct body ++ le16 (crc16 (innerBlock ct body))).modify j (· ^^^ d)) := by
    rw [hA, frameEncode, frameAround_eq_frameOf, frameOf_modify _ _ (by simpa using hj)]
  have hcheck : frameCheck s.inA = .ok (innerBlock ct body).length := by
    rw [hframe]
    exact frameCheck_frameOf _ (by simp) (by omega) (by omega)
  refine ⟨_, execFrameDec_of_ok hread hcheck, rfl, ?_⟩
  rw [hframe, framePlain_frameOf]
  refine (getLsbD_zero_decodeFlags ..).trans ?_
  exact beq_false_of_ne (rd16_ne_crc16_of_modify _ hj hd rfl)

/-! ## The streaming engines (R50, R59) -/

/-- Settles O30: both engines start from 0, where FRAME_ENC's CRC and cipher start. -/
theorem streamingEnginesBuildFrame : Obligations.StreamingEnginesBuildFrame := by
  intro ct s hbody hmax hcrc hks
  have hlen := length_innerBlock ct s.inA
  have hfeed : (innerBlock ct s.inA).length ≤ s.params.maxBuf.toNat := by omega
  have hxor : (innerBlock ct s.inA ++ le16 (crc16 (innerBlock ct s.inA))).length ≤ s.params.maxBuf.toNat := by
    rw [List.length_append, length_le16]
    omega
  have hcrc' : crc16From (innerBlock ct s.inA) s.crcAcc = crc16 (innerBlock ct s.inA) := by rw [hcrc]; rfl
  have hexec := execCrcFeed_of_le (s := { s with inA := innerBlock ct s.inA }) hfeed
  have hexec' := execKsXor_of_le (s := { s with inA := innerBlock ct s.inA ++ le16 (crc16 (innerBlock ct s.inA)) }) hxor
  simp only [hcrc'] at hexec
  have hout (p : Bytes) : xork s.params.key p s.ksIdx.toNat = xork s.params.key p 0 := by rw [hks]; rfl
  simp only [hout] at hexec'
  refine ⟨_, crc16 (innerBlock ct s.inA), _, _, execFrameEnc_of_le ct (by omega) hbody, hexec, hexec', rfl⟩

end Sys2Proof.Machine
end

section
/-! SUPPORT. What the resynchronizer finds (43_resync.md R67, R68, R73), and a built frame decoded (42_frame_codec.md R65). -/

open Sys2Proof.Stmt

namespace Sys2Proof.Machine

/-! ## A built frame decoded (R65) -/

theorem execFrameDec_of_frameEncode {u : State} {t : Half} {b : Bytes} (hread : readable u) (hbody : b.length ≤ 65531)
    (hA : u.inA = frameEncode u.params.key t b) :
    execFrameDec u = .next (respond
      { status := .ok
        flags := 0x03
        v0 := zext32 t
        v1 := zext32 (crc16 (innerBlock t b))
        v2 := zext32 (crc16 (innerBlock t b))
        v3 := BitVec.ofNat 32 b.length
        out := b } u) := by
  have hlen := length_innerBlock t b
  have hcheck : frameCheck u.inA = .ok (innerBlock t b).length := by
    rw [hA]
    exact frameCheck_frameAround _ (by omega) (by omega)
  have hdec := execFrameDec_of_ok hread hcheck
  rwa [hA, frameEncode, framePlain_frameAround, decodedResponse_innerBlock t hbody] at hdec

/-- Settles O39: a keypress frame is a built frame, its body the keycode low byte first. -/
theorem keypressFrameDecodes : Obligations.KeypressFrameDecodes := by
  intro tok s u r htok hexec hparams hA hmax
  obtain rfl := answerOnly_injective s (Host.Outcome.next.inj ((execKeyFrame_of_le s htok).symm.trans hexec))
  have hframe : u.inA = frameEncode u.params.key s.params.cmdKeypress (le16 (BitVec.ofNat 16 (32 + tok.toNat))) := by
    rw [hA, hparams]
    rfl
  have hread : readable u := by
    rw [readable, hframe, length_frameEncode, length_le16]
    exact hmax
  refine ⟨_, execFrameDec_of_frameEncode hread (by simp) hframe, rfl, rfl, rfl, rfl, ?_⟩
  exact le16_ofNat_of_lt (by omega)

/-! ## The range that a scan finds (R68) -/

section
variable {a : Bytes} {i : Nat} {x y : Byte}

theorem lt_length_of_pairAt (h : pairAt x y a i) : i + 1 < a.length :=
  (List.getElem?_eq_some_iff.mp h.2).1

theorem slice_of_pairAt (h : pairAt x y a i) : slice a i (i + 2) = [x, y] := by
  have hlen := lt_length_of_pairAt h
  obtain ⟨hx, hy⟩ := h
  rw [slice_two hlen, List.getD_eq_getElem?_getD, List.getD_eq_getElem?_getD, hx, hy]
  rfl

/-- From a leading marker to a trailing marker behind it both markers stand. -/
theorem bothMarkers_slice {j : Nat} (hlead : leadAt a i) (hj : i + 2 ≤ j) (htrail : trailAt a j) :
    bothMarkers (slice a i (j + 2)) := by
  refine ⟨slice a (i + 2) j, ?_⟩
  rw [← slice_of_pairAt hlead, ← slice_of_pairAt htrail, slice_append_slice a (by omega) hj,
    slice_append_slice a (by omega) (by omega)]

end

/-- Settles O33: the range runs from a leading marker to a trailing marker, both within the buffer. -/
theorem scannedRangeIsFramed : Obligations.ScannedRangeIsFramed := by
  intro s t r hread hexec hr hok
  cases hscan : scan s.params.scanMode s.inA with
  | notFound =>
    obtain rfl := Host.Outcome.next.inj ((execRsyncScan_of_notFound hread hscan).symm.trans hexec)
    obtain rfl := Option.some.inj hr
    cases hok
  | found i n range =>
    obtain rfl := Host.Outcome.next.inj ((execRsyncScan_of_found hread hscan).symm.trans hexec)
    obtain rfl := Option.some.inj hr
    obtain ⟨hlead, -, j, ⟨hj, htrail, -⟩, rfl, rfl⟩ := scan_eq_found_iff.mp hscan
    have hend := lt_length_of_pairAt htrail
    have hfits : s.inA.length < 2 ^ 32 := Nat.lt_of_le_of_lt hread s.params.maxBuf.isLt
    have hv0 : (len32 i).toNat = i := Nat.mod_eq_of_lt (by omega)
    have hv1 : (len32 (j + 2 - i)).toNat = j + 2 - i := Nat.mod_eq_of_lt (by omega)
    refine ⟨bothMarkers_slice hlead hj htrail, ?_, ?_, ?_⟩
    · rw [hv0, hv1]
      exact List.drop_take
    · rw [hv1, length_slice, Nat.min_eq_left (by omega)]
    · rw [hv0, hv1]
      omega

/-! ## A frame after noise (R73) -/

section
variable (noise tail : Bytes) {frame : Bytes} {m : Nat}

/-- What stands in the middle part of a buffer. -/
theorem getElem?_middle (h : m < frame.length) : (noise ++ frame ++ tail)[noise.length + m]? = frame[m]? := by
  rw [List.getElem?_append_left (by rw [List.length_append]; omega), List.getElem?_append_right (Nat.le_add_right ..),
    Nat.add_sub_cancel_left]

theorem pairAt_middle {x y : Byte} (h : m + 1 < frame.length) :
    pairAt x y (noise ++ frame ++ tail) (noise.length + m) ↔ pairAt x y frame m := by
  rw [pairAt, Nat.add_assoc, getElem?_middle noise tail (Nat.lt_of_succ_lt h), getElem?_middle noise tail h, pairAt]

/-- No leading marker stands before the frame, not even across its start: a frame begins with AB, not CD. -/
theorem not_leadAt_before (hnoise : ∀ i, ¬ leadAt noise i) (hframe : frame[0]? = some 0xAB) {i : Nat}
    (hi : i < noise.length) : ¬ leadAt (noise ++ frame ++ tail) i := by
  rintro ⟨hfirst, hsecond⟩
  rw [List.append_assoc] at hfirst hsecond
  rw [List.getElem?_append_left hi] at hfirst
  rcases Nat.lt_or_eq_of_le (Nat.succ_le_of_lt hi) with hinside | hacross
  · rw [List.getElem?_append_left hinside] at hsecond
    exact hnoise i ⟨hfirst, hsecond⟩
  · have hzero := getElem?_middle noise tail (List.getElem?_eq_some_iff.mp hframe).1
    rw [Nat.add_zero, ← hacross, hframe, List.append_assoc, Nat.succ_eq_add_one, hsecond] at hzero
    exact absurd hzero (by decide)

end

theorem leadAt_frameEncode (key : Vector Byte 16) (t : Half) (b : Bytes) : leadAt (frameEncode key t b) 0 := ⟨rfl, rfl⟩

theorem trailAt_frameEncode (key : Vector Byte 16) (t : Half) (b : Bytes) :
    trailAt (frameEncode key t b) (b.length + 10) := by
  have hdrop := drop_frameAround key (innerBlock t b)
  rw [length_innerBlock] at hdrop
  rw [← Nat.add_zero (b.length + 10), ← trailAt_drop, frameEncode, show b.length + 10 = b.length + 4 + 6 by omega, hdrop]
  exact ⟨rfl, rfl⟩

/-- The shortest scan finds the first frame after noise, where nothing inside it ends it early. -/
theorem scan_frame_after_noise (key : Vector Byte 16) (t : Half) (b noise tail : Bytes) (hnoise : ∀ i, ¬ leadAt noise i)
    (hinside : ∀ j, 2 ≤ j → j < b.length + 10 → ¬ trailAt (frameEncode key t b) j) :
    scan .shortest (noise ++ frameEncode key t b ++ tail) =
      .found noise.length (b.length + 12) (frameEncode key t b) := by
  have hlen := length_frameEncode key t b
  refine scan_eq_found_iff.mpr ⟨?_, ?_, noise.length + (b.length + 10), ⟨by omega, ?_, ?_, nofun⟩, by omega, ?_⟩
  · exact (pairAt_middle noise tail (m := 0) (by omega)).mpr (leadAt_frameEncode key t b)
  · exact fun i hi => not_leadAt_before noise tail hnoise rfl hi
  · exact (pairAt_middle noise tail (by omega)).mpr (trailAt_frameEncode key t b)
  · intro _ j' hlow hhigh htrail
    obtain ⟨m, rfl⟩ := Nat.exists_eq_add_of_le (show noise.length ≤ j' by omega)
    exact hinside m (by omega) (by omega) ((pairAt_middle noise tail (by omega)).mp htrail)
  · rw [show noise.length + (b.length + 10) + 2 = noise.length + (frameEncode key t b).length by omega, slice_middle]

/-- Settles O34: the scan finds the frame as it was built, and a built frame decodes. -/
theorem frameAfterNoiseIsRecovered : Obligations.FrameAfterNoiseIsRecovered := by
  intro ct body noise tail s u hbody hmode hparams hnoise hinside hA hread
  have hscan := scan_frame_after_noise s.params.key ct body noise tail hnoise hinside
  rw [← hA, ← hmode] at hscan
  refine ⟨_, execRsyncScan_of_found hread hscan, rfl, rfl, fun hu => ?_⟩
  have hfits : readable u := by
    have hlen : s.inA.length = noise.length + (frameEncode s.params.key ct body).length + tail.length := by
      rw [hA, List.length_append, List.length_append]
    rw [readable] at hread ⊢
    rw [hu, hparams]
    dsimp only
    omega
  rw [← hparams] at hu
  exact ⟨_, execFrameDec_of_frameEncode hfits hbody hu, rfl, rfl, rfl, rfl⟩

end Sys2Proof.Machine
end

section
/-! SUPPORT. The host's procedures (43_resync.md R69, R70; 44_keypress.md R79): each request they issue is its operation on
its buffer, and leaves the registers, the parameters and the host's other events. -/

open Sys2Proof.Safety Sys2Proof.Stmt

namespace Sys2Proof.Machine

variable {s : State}

/-! ## One request of the host -/

theorem transact_eq {i : Instr} {a : Bytes} {r : Response} (hreset : s.inReset = false)
    (h : exec i { s with inA := a } = .next (answerOnly s r)) :
    transact (encode i) a s = some (r, answerOnly s r) := by
  have hstep : step { s with inbox := .request (encode i) a :: s.inbox } = .next (answerOnly s r) :=
    (step_request (s := { s with inbox := .request (encode i) a :: s.inbox }) rfl hreset).trans
      ((runRequest_ok (decode_encode i)).trans h)
  rw [transact, hstep]
  rfl

/-! ## RESYNC (R69) -/

section
variable {n : Nat} {l : Serial} {check : Response} {t : State}

theorem resync_of_framed (h : transact (encode .rsyncCheck) (serialRead n l).1 s = some (check, t))
    (hframed : check.flags.getLsbD 0 = true) : resync n l s = some ((serialRead n l).1, (serialRead n l).2, t) := by
  simp only [resync, h, Option.bind_some, hframed, if_true]

theorem resync_of_not_framed {r : Response} {u : State}
    (h : transact (encode .rsyncCheck) (serialRead n l).1 s = some (check, t))
    (hframed : check.flags.getLsbD 0 = false)
    (hscan : transact (encode .rsyncScan) ((serialRead n l).1 ++ (serialRead resyncExtra (serialRead n l).2).1) t =
      some (r, u)) :
    resync n l s = some (r.out, (serialRead resyncExtra (serialRead n l).2).2, u) := by
  simp only [resync, h, Option.bind_some, hframed, Bool.false_eq_true, if_false, hscan, Option.map_some]

end

/-- The host sees FRAMED exactly for a read with both markers within `P_MAX_BUF`: an ERR_LEN has FLAGS = 0 (R81). -/
theorem exists_rsyncCheck (a : Bytes) (s : State) :
    ∃ r, exec .rsyncCheck { s with inA := a } = .next (answerOnly s r) ∧
      (r.flags.getLsbD 0 = true ↔ bothMarkers a ∧ a.length ≤ s.params.maxBuf.toNat) := by
  rcases Nat.lt_or_ge s.params.maxBuf.toNat a.length with hlong | hread
  · refine ⟨_, longBufferErrLen_of_readsBuffer rfl { s with inA := a } (Nat.not_le.mpr hlong), ?_⟩
    simp [Nat.not_le.mpr hlong]
  · refine ⟨_, execRsyncCheck_of_le (s := { s with inA := a }) hread, ?_⟩
    have hflag (b : Bool) : (framedFlags b).getLsbD 0 = b := by cases b <;> rfl
    simp only [hflag, framed_eq_true_iff, hread, and_true]

/-- RSYNC_SCAN answers alike in two states with the same parameters, and with no OUT beyond `P_MAX_BUF` (R16, R81). -/
theorem exists_rsyncScan (a : Bytes) (s : State) :
    ∃ r, (∀ t : State, t.params = s.params → exec .rsyncScan { t with inA := a } = .next (answerOnly t r)) ∧
      (s.params.maxBuf.toNat < a.length → r.out = []) := by
  obtain ⟨f, hf⟩ := quiet_execRsyncScan
  refine ⟨f s.params a, fun t ht => ht ▸ hf { t with inA := a }, fun hlong => ?_⟩
  have herr := longBufferErrLen_of_readsBuffer (i := .rsyncScan) rfl { s with inA := a } (Nat.not_le.mpr hlong)
  have hr := answerOnly_injective _ (Host.Outcome.next.inj (herr.symm.trans (hf { s with inA := a })))
  exact (congrArg Response.out hr).symm

/-- Settles O35: by what the check says of the first read. -/
theorem resyncFollowsProcedure : Obligations.ResyncFollowsProcedure := by
  intro n d1 d2 line draws s hreset s1 both
  obtain ⟨check, hcheck, hframed⟩ := exists_rsyncCheck s1 s
  have hfirst := transact_eq hreset hcheck
  by_cases hmark : bothMarkers s1 ∧ s1.length ≤ s.params.maxBuf.toNat
  · refine ⟨_, _, _, resync_of_framed hfirst (hframed.mpr hmark), rfl, rfl, rfl, rfl, fun _ _ => ⟨rfl, rfl, rfl⟩, ?_⟩
    exact fun hnot => absurd hmark hnot
  · obtain ⟨r, hscan, hlong⟩ := exists_rsyncScan both s
    have hsecond := transact_eq (s := answerOnly s check) hreset (hscan (answerOnly s check) rfl)
    refine ⟨_, _, _, resync_of_not_framed hfirst (Bool.eq_false_iff.mpr (mt hframed.mp hmark)) hsecond, rfl, rfl, rfl, rfl,
      fun hm hl => absurd ⟨hm, hl⟩ hmark, fun _ => ⟨rfl, rfl, r, hscan s rfl, rfl, hlong⟩⟩

/-! ## PRESS (R79) -/

theorem toNat_tok_le (t : KeyToken) : (Asm.tok t).toNat ≤ 18 := by
  cases t <;> decide

/-- The keycode of a token (R74). -/
def tokenCode (t : KeyToken) : Half := BitVec.ofNat 16 (32 + (Asm.tok t).toNat)

theorem transact_keyFrame (t : KeyToken) (hreset : s.inReset = false) :
    transact (encode (.keyFrame (Asm.tok t))) [] s =
      some (keyFrameResponse s.params (tokenCode t), answerOnly s (keyFrameResponse s.params (tokenCode t))) :=
  transact_eq hreset (execKeyFrame_of_le { s with inA := [] } (toNat_tok_le t))

/-- PRESS builds the frames of its tokens in order, and leaves all but the response port. -/
theorem exists_press (ts : List KeyToken) (hreset : s.inReset = false) :
    ∃ u, press ts s = some (ts.flatMap fun t => pressActions (keyFrameOf s.params (tokenCode t)), u) ∧
      u.crcAcc = s.crcAcc ∧ u.ksIdx = s.ksIdx ∧ u.params = s.params ∧ u.inbox = s.inbox := by
  induction ts generalizing s with
  | nil => exact ⟨s, rfl, rfl, rfl, rfl, rfl⟩
  | cons t ts ih =>
    obtain ⟨u, hpress, hframe⟩ := ih (s := answerOnly s (keyFrameResponse s.params (tokenCode t))) hreset
    refine ⟨u, ?_, hframe⟩
    rw [press, transact_keyFrame t hreset, Option.bind_some]
    dsimp only
    rw [hpress]
    rfl

/-- The wait of one key pays the interval that its frame owes. -/
theorem settleKept_flatMap_pressActions {α : Type} (frames : α → Bytes) (ts : List α) :
    settleKept 0 (ts.flatMap fun t => pressActions (frames t)) = true := by
  induction ts with
  | nil => rfl
  | cons t ts ih => exact ih

/-- Settles O40: the actions of the tokens in order, each ending with the interval its frame owes. -/
theorem pressKeepsOrderAndSettle : Obligations.PressKeepsOrderAndSettle := by
  intro ts s hreset
  obtain ⟨u, hpress, hframe⟩ := exists_press ts hreset
  exact ⟨_, u, hpress, rfl, settleKept_flatMap_pressActions _ ts, hframe⟩

end Sys2Proof.Machine
end
